-- ==== Sys2Proof/Word.lean ====
section
/-!
DEFINITION. The words that cross the ports and the small types of their fields (30_encoding.md R45 to R51).
-/

namespace Sys2Proof

/-- A command word on CMD or a response word on RSP (R45). -/
abbrev Word := BitVec 32

/-- The operand of RDS (R51): which aggregate is read. SEL has two bits and all four values are defined, so
the type has exactly the four of them. -/
inductive Sel where
  | sumabs
  | maxe
  | mine
  | nz
deriving DecidableEq, Repr

end Sys2Proof
end

