-- ==== Sys2Proof/Syntax.lean ====
section
/-!
DEFINITION. The command set: one constructor per row of spec/opcode_table.json (30_encoding.md R47).
-/

namespace Sys2Proof

/-- The five commands (R47). Every operand field has the width of its bits, so every term is a command the spec
defines (R48 to R51). -/
inductive Instr where
  /-- ENC, `encode(index)` (R48, R63): IDXF is any 8-bit value; 133..255 fault when executed. -/
  | enc (idxf : BitVec 8)
  /-- ACLR, open a pass (R49, R82). -/
  | aclr
  /-- ACMP, compare the next index with one reference colour (R50, R83). -/
  | acmp (rr rg rb : BitVec 8)
  /-- AFIN, close the pass (R49, R86). -/
  | afin
  /-- RDS, read one aggregate (R51, R87). -/
  | rds (sel : Sel)
deriving DecidableEq, Repr

end Sys2Proof
end

