-- ==== Sys2Proof/WellFormed.lean ====
section
/-!
DEFINITION. Which command words are legal: the list of 30_encoding.md R59, one named check for each of its
conditions, written from R59 and not from the decoder. An `Instr` carries its operands in fields of exactly the
operands' widths, so it needs no check of its own; that the word of every `Instr` passes these checks is the
per-instruction family of Sys2Proof/Laws/PerInstr.lean.
-/

namespace Sys2Proof.WellFormed

/-- R59: OP is 0x0 or 0x6..0xF. -/
def opUndefined (w : Word) : Bool :=
  w.extractLsb' 28 4 == 0x0#4 || (0x6#4).ule (w.extractLsb' 28 4)

/-- R59: RSV is not 0. -/
def rsvNotZero (w : Word) : Bool :=
  w.extractLsb' 24 4 != 0#4

/-- R59: OP = ENC and ARG[23:8] is not 0. -/
def encHighArg (w : Word) : Bool :=
  w.extractLsb' 28 4 == 0x1#4 && w.extractLsb' 8 16 != 0#16

/-- R59: OP = ACLR or AFIN and ARG is not 0. -/
def plainArg (w : Word) : Bool :=
  (w.extractLsb' 28 4 == 0x2#4 || w.extractLsb' 28 4 == 0x4#4) && w.extractLsb' 0 24 != 0#24

/-- R59: OP = RDS and ARG[23:2] is not 0. -/
def rdsHighArg (w : Word) : Bool :=
  w.extractLsb' 28 4 == 0x5#4 && w.extractLsb' 2 22 != 0#22

/-- `word is illegal` (R10, R59): any of the five conditions holds. -/
def wordIllegal (w : Word) : Bool :=
  opUndefined w || rsvNotZero w || encHighArg w || plainArg w || rdsHighArg w

end Sys2Proof.WellFormed
end

