-- ==== Sys2Proof/Decode.lean ====
section
/-!
DEFINITION. The decoder of command words, total and rejecting by name, and after it the encoder; both from the
field layout of 30_encoding.md R46 to R51. The match/mask rows of R47 stand last, as data.
-/

namespace Sys2Proof

/-- Why a word is no command. The block records only that the word is illegal (R59, R101); the reason is the
model's, for a reader. -/
inductive DecodeError where
  /-- OP is 0x0 or 0x6..0xF (R47). -/
  | undefinedOpcode (op : BitVec 4)
  /-- RSV is not zero (R46). -/
  | reservedNotZero (rsv : BitVec 4)
  /-- A must-be-zero part of ARG is not zero (R48, R49, R51). -/
  | argumentNotZero (op : BitVec 4)
deriving DecidableEq, Repr

/-- OP, bits [31:28] (R46). -/
def cmdOp (w : Word) : BitVec 4 := w.extractLsb' 28 4

/-- RSV, bits [27:24] (R46). -/
def cmdRsv (w : Word) : BitVec 4 := w.extractLsb' 24 4

/-- ARG, bits [23:0] (R46). -/
def cmdArg (w : Word) : BitVec 24 := w.extractLsb' 0 24

/-- SEL as two bits (R51): 0 = SUMABS, 1 = MAXE, 2 = MINE, 3 = NZ. -/
def selBits : Sel → BitVec 2
  | .sumabs => 0
  | .maxe => 1
  | .mine => 2
  | .nz => 3

/-- The aggregate that two bits select (R51). -/
def selOfBits (b : BitVec 2) : Sel :=
  if b = 0 then .sumabs else if b = 1 then .maxe else if b = 2 then .mine else .nz

/-- The decoder of R46, R47 and R59: every word is one of the five commands or is rejected by name. -/
def decode (w : Word) : Except DecodeError Instr :=
  if cmdRsv w ≠ 0 then .error (.reservedNotZero (cmdRsv w))
  else if cmdOp w = 0x1 then
    if (cmdArg w).extractLsb' 8 16 = 0 then .ok (.enc ((cmdArg w).extractLsb' 0 8))
    else .error (.argumentNotZero (cmdOp w))
  else if cmdOp w = 0x2 then
    if cmdArg w = 0 then .ok .aclr else .error (.argumentNotZero (cmdOp w))
  else if cmdOp w = 0x3 then
    .ok (.acmp ((cmdArg w).extractLsb' 16 8) ((cmdArg w).extractLsb' 8 8) ((cmdArg w).extractLsb' 0 8))
  else if cmdOp w = 0x4 then
    if cmdArg w = 0 then .ok .afin else .error (.argumentNotZero (cmdOp w))
  else if cmdOp w = 0x5 then
    if (cmdArg w).extractLsb' 2 22 = 0 then .ok (.rds (selOfBits ((cmdArg w).extractLsb' 0 2)))
    else .error (.argumentNotZero (cmdOp w))
  else .error (.undefinedOpcode (cmdOp w))

/-- The decoder on an instruction numbered as spec/opcode_table.json numbers it: bit 0 is the least significant bit
of the one 32-bit word, and bits at or above `nbits` are 0. The length of every command is 32 bits (R60), so a row of
more bits is no command. -/
def decodeTableWord (nbits w : Nat) : Option Instr :=
  if nbits ≤ 32 then (decode (BitVec.ofNat 32 (w % 2 ^ nbits))).toOption else none

/-- Format C (R46): OP, RSV = 0, ARG. -/
def formatC (op : BitVec 4) (arg : BitVec 24) : Word := op ++ 0#4 ++ arg

/-- The word of a command (R47 to R51). -/
def encode : Instr → Word
  | .enc idxf => formatC 0x1 (0#16 ++ idxf)
  | .aclr => formatC 0x2 0
  | .acmp rr rg rb => formatC 0x3 (rr ++ rg ++ rb)
  | .afin => formatC 0x4 0
  | .rds sel => formatC 0x5 (0#22 ++ selBits sel)

/-- One row of the match/mask table of R47. -/
structure OpcodeRow where
  mnemonic : String
  pattern : Word
  mask : Word
deriving DecidableEq, Repr

/-- A word w selects the row when `w AND mask = match` (R47). -/
def OpcodeRow.selects (r : OpcodeRow) (w : Word) : Bool := w &&& r.mask == r.pattern

/-- The five match/mask rows of R47, as the spec lists them. -/
def opcodeRows : List OpcodeRow :=
  [ ⟨"ENC", 0x10000000, 0xFFFFFF00⟩,
    ⟨"ACLR", 0x20000000, 0xFFFFFFFF⟩,
    ⟨"ACMP", 0x30000000, 0xFF000000⟩,
    ⟨"AFIN", 0x40000000, 0xFFFFFFFF⟩,
    ⟨"RDS", 0x50000000, 0xFFFFFFFC⟩ ]

/-- The mnemonic of a command, as R47 and spec/opcode_table.json spell it. -/
def mnemonic : Instr → String
  | .enc _ => "ENC"
  | .aclr => "ACLR"
  | .acmp _ _ _ => "ACMP"
  | .afin => "AFIN"
  | .rds _ => "RDS"

end Sys2Proof
end

