-- ==== Sys2Proof/Config.lean ====
section
/-!
DEFINITION. What the implementation fixes (00_scope.md R5): the index ranges, and the shape of the four constant
tables (20_memory.md R31, R32). The contents of the tables stand in Sys2Proof/Machine/Tables.lean.
There is no free value: 93_implementation_defined.md section 1 treats no case as "any value".
-/

namespace Sys2Proof

/-- A colour index inside the encoder's domain: 0..132 (R5 N_ENTRIES, R55). -/
abbrev Index := Fin 133

/-- A band: 0..6 (R5 N_BANDS); the address of BASE, TOP and GRAY (R31). -/
abbrev Band := Fin 7

/-- A slot: 0..18 (R5 N_SLOTS); 0 is the gray entry of a band. -/
abbrev Slot := Fin 19

/-- A hue slot: slot 1..18 written as slot - 1; the address of HUE, which has no entry for slot 0 (R22, R31). -/
abbrev HueSlot := Fin 18

/-- The four read-only address spaces (R31), each total on exactly its addresses, as R32 asks.
`MemRead(space, a)` of R10 is the application of the field to the address: an entry is read whole, a read changes
nothing (R35). Tables are parameters of the step, no state (R26); a model may make them fields of a record so that a
claim can name them (R26, D17). -/
structure Tables where
  /-- HUE: 18 entries of 6 bits (R22). -/
  hue : HueSlot → BitVec 6
  /-- BASE: 7 entries of 8 bits (R23). -/
  base : Band → BitVec 8
  /-- TOP: 7 entries of 9 bits (R24). -/
  top : Band → BitVec 9
  /-- GRAY: 7 entries of 8 bits (R25). -/
  gray : Band → BitVec 8

end Sys2Proof
end

