-- ==== Sys2Proof/Machine/Tables.lean ====
section
/-!
DEFINITION. The contents of the four constant tables (10_state.md R22 to R25) and the table check that reset makes
(70_reset_and_hazards.md R120).
-/

namespace Sys2Proof.Machine

/-- The 18 HueCodes, slot 1 first (R22: bits [5:4] red, [3:2] green, [1:0] blue).
UNVERIFIED: the numeric literals of all tables are the document's and unaudited (93 U7); log entry 16. -/
def hueCodes : Vector (BitVec 6) 18 :=
  #v[0b110100, 0b111000, 0b111100, 0b101100, 0b011100, 0b001100,
     0b001101, 0b001110, 0b001111, 0b001011, 0b000111, 0b000011,
     0b010011, 0b100011, 0b110011, 0b110010, 0b110001, 0b110000]

/-- BASE (R23). -/
def baseValues : Vector (BitVec 8) 7 := #v[192, 144, 96, 64, 0, 0, 0]

/-- TOP (R24). -/
def topValues : Vector (BitVec 9) 7 := #v[256, 192, 192, 192, 256, 192, 128]

/-- GRAY (R25; GRAY[6] = 36 by 90_conflicts.md C1). -/
def grayValues : Vector (BitVec 8) 7 := #v[255, 219, 182, 146, 109, 73, 36]

/-- The tables of the block this spec describes (R26: "the block this spec describes has exactly these values"). -/
def tables : Tables where
  hue a := hueCodes[a]
  base b := baseValues[b]
  top b := topValues[b]
  gray b := grayValues[b]

/-- `table_check()` (R120): TOP[band] is at least BASE[band] for every band. BASE is stored unsigned, so
`BASE[band] ≥ 0` holds by representation. -/
def tableCheck (t : Tables) : Bool :=
  (List.finRange 7).all fun b => decide ((t.base b).toNat ≤ (t.top b).toNat)

end Sys2Proof.Machine
end

