-- ==== Sys2Proof/Machine/State.lean ====
section
/-!
DEFINITION. The state of the block as plain data: the seven registers of 10_state.md R13 and the two ports of
30_encoding.md R45; the reasons a step can stop; the state after reset (R28, R119).
-/

namespace Sys2Proof.Machine

/-- PHASE (R14): where the block is in a pass. All four values of the two bits are legal. -/
inductive Phase where
  /-- 0: no pass begun since reset. -/
  | idle
  /-- 1: a pass is open. -/
  | run
  /-- 2: the last pass closed successfully; the four statistics are readable. -/
  | done
  /-- 3: a fault has been raised. -/
  | faulted
deriving DecidableEq, Repr

/-- The four synchronous faults of the block (R101). They do not stop the machine: raising one is an ordinary next
state (R108). -/
inductive FaultCause where
  /-- 1: ENC with an index outside 0..132 (R102). -/
  | domainViolation
  /-- 2: a reference sequence whose length is not 133 (R103). -/
  | inputShapeError
  /-- 3: the table check failed at reset (R104). -/
  | degenerateTable
  /-- 4: an illegal word, or a command not legal in the current phase (R105). -/
  | illegalOperation
deriving DecidableEq, Repr

/-- What the host does next (00_scope.md R8): "A run is a finite sequence of host actions, each either a command word
or a reset." -/
inductive HostAction where
  /-- Put one command word, any 32-bit value, on CMD (R127). -/
  | command (w : Word)
  /-- Apply RESET between two commands (R119). -/
  | reset
deriving DecidableEq, Repr

/-- The whole state. "Nothing else in the block holds a value from one command to the next" (R13) than the first seven
fields; the last two are the ports. -/
structure State where
  /-- PHASE, 2 bits (R14). -/
  phase : Phase
  /-- CAUSE, 3 bits (R15): `none` is code 0. The codes 5..7 are never written, and a model may use types that exclude
  them (93 U14); log entry 7. -/
  cause : Option FaultCause
  /-- IDX, 8 bits unsigned (R16). -/
  idx : BitVec 8
  /-- SUMABS, 17 bits unsigned (R17). -/
  sumabs : BitVec 17
  /-- MAXE, 9 bits two's complement (R18). -/
  maxe : BitVec 9
  /-- MINE, 9 bits two's complement (R19). -/
  mine : BitVec 9
  /-- NZ, 9 bits unsigned (R20). -/
  nz : BitVec 9
  /-- The CMD and RESET ports, seen from the host's side: the host actions still to come, next one first.
  DESIGN CHOICE: the form of the port; log entry 1. -/
  actions : List HostAction
  /-- The RSP port, seen from the host's side: the response words so far, oldest first.
  DESIGN CHOICE: the form of the port; log entry 2. -/
  responses : List Word
deriving DecidableEq, Repr

/-- Reasons a step can stop the machine. There is none: every command in every state produces its response in one step
and the block never ends a run by itself (R8), so no constructor stands here and no meaning raises one. Safe and exact:
nothing is stopped that the spec lets go on. The block's own faults are `FaultCause`, and raising one is a next state. -/
inductive Fault where
deriving DecidableEq, Repr

/-- Reasons to give a command no meaning. -/
inductive Refusal where
  /-- An instruction the model has not reached. Raised by no arm: every command has its meaning. Safe. -/
  | notModelled (mnemonic : String)
deriving DecidableEq, Repr

/-- The registers after the RESET event of a block with the tables `t` (R28, R119): IDLE with CAUSE 0 if the table check
passes, else FAULTED with CAUSE 3 (R120), every other register as R28 lists it; no word pending on a port. -/
def State.afterReset (t : Tables) : State where
  phase := if tableCheck t then .idle else .faulted
  cause := if tableCheck t then none else some .degenerateTable
  idx := 0#8
  sumabs := 0#17
  maxe := BitVec.ofInt 9 (-255)
  mine := BitVec.ofInt 9 255
  nz := 0#9
  actions := []
  responses := []

/-- The machine right after reset: "a model takes the state after a reset as the only initial state" (R119). -/
def State.reset : State := State.afterReset tables

end Sys2Proof.Machine
end

