-- ==== Sys2Proof/Machine/Flags.lean ====
section
/-!
DEFINITION. Flags. The block has no arithmetic flags: "no carry, zero, sign or overflow bit is kept"; the only
flag-like state is "the block has faulted", which is PHASE = FAULTED (10_state.md R21).
-/

namespace Sys2Proof.Machine

/-- The sticky fault flag (R21). -/
abbrev hasFaulted (s : State) : Prop := s.phase = .faulted

end Sys2Proof.Machine
end

