-- ==== Sys2Proof/Machine/Operands.lean ====
section
/-!
DEFINITION. The data formats of operands and results: 24-bit colours (30_encoding.md R57), error triples (R58), the
payload of an OK response by command (R54), status codes (R53), the response word (R52), and the fields of a response
word as a host reads them.
-/

namespace Sys2Proof.Machine

/-- Three channel values in the order red, green, blue (00_scope.md R11), as exact integers (R9). -/
structure Rgb where
  r : Int
  g : Int
  b : Int
deriving DecidableEq, Repr

/-- `zext_8(r) ++ zext_8(g) ++ zext_8(b)` (R57). -/
def rgb24 (c : Rgb) : BitVec 24 :=
  BitVec.ofInt 8 c.r ++ BitVec.ofInt 8 c.g ++ BitVec.ofInt 8 c.b

/-- The colour that three 8-bit fields name (R50): each an unsigned integer. -/
def rgbOfFields (rr rg rb : BitVec 8) : Rgb := ⟨rr.toNat, rg.toNat, rb.toNat⟩

/-- The colour a 24-bit word names (R57). -/
def rgbOfRgb24 (w : BitVec 24) : Rgb :=
  rgbOfFields (w.extractLsb' 16 8) (w.extractLsb' 8 8) (w.extractLsb' 0 8)

/-- ERR27 (R58): `sext_9(er) ++ sext_9(eg) ++ sext_9(eb)`. -/
def err27 (e : Rgb) : BitVec 27 :=
  BitVec.ofInt 9 e.r ++ BitVec.ofInt 9 e.g ++ BitVec.ofInt 9 e.b

/-- The payload of an OK response to ENC (R54): bits [27:24] are 0, bits [23:0] the colour. -/
def encPayload (c : Rgb) : BitVec 28 := 0#4 ++ rgb24 c

/-- The payload of an OK response to ACMP (R54): bit 27 is 0, bits [26:0] the error triple. -/
def acmpPayload (e : Rgb) : BitVec 28 := 0#1 ++ err27 e

/-- The payload of an OK response to RDS (R54): SUMABS and NZ zero-extended, MAXE and MINE sign-extended. -/
def rdsPayload (sel : Sel) (s : State) : BitVec 28 :=
  match sel with
  | .sumabs => s.sumabs.setWidth 28
  | .maxe => s.maxe.signExtend 28
  | .mine => s.mine.signExtend 28
  | .nz => s.nz.setWidth 28

/-- The code of a fault (R101). -/
def FaultCause.code : FaultCause → BitVec 4
  | .domainViolation => 1#4
  | .inputShapeError => 2#4
  | .degenerateTable => 3#4
  | .illegalOperation => 4#4

/-- ST takes the same values as CAUSE (R53); 0 where no fault is recorded (R15). -/
def statusOfCause (c : Option FaultCause) : BitVec 4 :=
  match c with
  | none => 0#4
  | some f => f.code

/-- PHASE as its two bits (R14). -/
def Phase.code : Phase → BitVec 2
  | .idle => 0#2
  | .run => 1#2
  | .done => 2#2
  | .faulted => 3#2

/-- The response word (R52): ST ++ PAY. -/
def responseWord (st : BitVec 4) (pay : BitVec 28) : Word := st ++ pay

/-- ST of a response word (R52). -/
def respStatus (w : Word) : BitVec 4 := w.extractLsb' 28 4

/-- PAY of a response word (R52). -/
def respPayload (w : Word) : BitVec 28 := w.extractLsb' 0 28

/-- The three signed errors a host reads from the response of an ACMP (R89):
`signed_9(PAY[26:18])`, `signed_9(PAY[17:9])`, `signed_9(PAY[8:0])`. -/
def respErrors (w : Word) : Rgb :=
  ⟨((respPayload w).extractLsb' 18 9).toInt, ((respPayload w).extractLsb' 9 9).toInt,
   ((respPayload w).extractLsb' 0 9).toInt⟩

end Sys2Proof.Machine
end

