-- ==== Sys2Proof/Machine/Ops.lean ====
section
/-!
DEFINITION. The shared operations: answering a command, refusing it, TAKING A FAULT (60_exceptions.md R108), the RESET
event, which is the only way out of a fault (R110, 70_reset_and_hazards.md R119), clearing the accumulators, and the
order of checks every command goes through (R106).
-/

namespace Sys2Proof.Machine

/-- `respond(st, pay)` (R10): put one response word on RSP. -/
def respond (st : BitVec 4) (pay : BitVec 28) (s : State) : State :=
  { s with responses := s.responses ++ [responseWord st pay] }

/-- `raise X(info)` with cause X (R108), the whole effect of the faulting command: CAUSE <- n; PHASE <- FAULTED;
respond(n, 0). No other register is written (D31) and only the code is recorded (R101). -/
def raiseFault (c : FaultCause) (s : State) : State :=
  respond c.code 0#28 { s with cause := some c, phase := .faulted }

/-- Refusal in FAULTED (R109): `respond(CAUSE, 0)`, nothing else. -/
def refuse (s : State) : State :=
  respond (statusOfCause s.cause) 0#28 s

/-- The five registers of an empty pass (R82, R119): the neutral elements of the four folds, and entry 0. -/
def clearPass (s : State) : State :=
  { s with idx := 0#8, sumabs := 0#17, maxe := BitVec.ofInt 9 (-255), mine := BitVec.ofInt 9 255, nz := 0#9 }

/-- The RESET event (R119): every register takes its reset value, whatever it held. It has no response word; what the
host has still to do and what it has already read are the host's (log entries 1 and 2). -/
def resetEvent (s : State) : State :=
  { State.afterReset tables with actions := s.actions, responses := s.responses }

/-- The order of checks of R106 for a well-formed command: a FAULTED block refuses; a command not legal in the current
phase raises IllegalOperation; otherwise the command's own effect, which makes its operand or count check itself. -/
def perform (legal : List Phase) (s : State) (body : State → State) : Host.Outcome State Fault Refusal :=
  if hasFaulted s then .next (refuse s)
  else if s.phase ∈ legal then .next (body s)
  else .next (raiseFault .illegalOperation s)

/-- An illegal word (R59, R106 steps 1 and 2): refused in FAULTED, else IllegalOperation. -/
def illegalWord (s : State) : Host.Outcome State Fault Refusal :=
  perform [] s id

/-- The state with another list of host actions to come; no register is written. -/
def withActions (actions : List HostAction) (s : State) : State := { s with actions := actions }

/-- Take the host's next action, if there is one (R6, R7). -/
def takeAction (s : State) : Option (HostAction × State) :=
  match s.actions with
  | [] => none
  | a :: rest => some (a, withActions rest s)

end Sys2Proof.Machine
end

