-- ==== Sys2Proof/Machine/Encoder.lean ====
section
/-!
DEFINITION. The encoder half (40_encoder.md): its sub-units IDXDEC, GRAYGEN, HUESEL, BTLUT, LERP and OUTMUX (R64 to
R71), the function `encode` (R72), and the command ENC (R63). The functions take the tables as an argument (R26).
Every quantity is an exact integer and no clamp stands anywhere (R73, R74); DEDUCED, log entry 8.
-/

namespace Sys2Proof.Machine

/-- IDXDEC (R64): band = i div 19. -/
def bandOf (i : Index) : Band := ⟨i.val / 19, by omega⟩

/-- IDXDEC (R64): slot = i mod 19. -/
def slotOf (i : Index) : Slot := ⟨i.val % 19, by omega⟩

/-- GRAYGEN (R66): `MemRead(GRAY, band)`. -/
def grayOf (t : Tables) (band : Band) : Int := (t.gray band).toNat

/-- The three 2-bit selectors of a hue (R68). -/
structure Selectors where
  rsel : BitVec 2
  gsel : BitVec 2
  bsel : BitVec 2
deriving DecidableEq, Repr

/-- HUESEL (R56, R67, R68): the code of the slot, unpacked. -/
def selectorsOf (t : Tables) (h : HueSlot) : Selectors :=
  ⟨(t.hue h).extractLsb' 4 2, (t.hue h).extractLsb' 2 2, (t.hue h).extractLsb' 0 2⟩

/-- The interval of a band (R69). -/
structure Interval where
  baseVal : Int
  topVal : Int
  delta : Int
deriving DecidableEq, Repr

/-- BTLUT (R69), with B = `MemRead(BASE, band)` and T = `MemRead(TOP, band)`. -/
def intervalOf (t : Tables) (band : Band) : Interval :=
  let b : Int := (t.base band).toNat
  let top : Int := (t.top band).toNat
  let baseVal := if b > 0 then b - 1 else 0
  { baseVal := baseVal, topVal := top - 1, delta := top - 1 - baseVal }

/-- LERP (R70): `baseVal + ((delta * c) div 3)`, the product first. -/
def lerp (v : Interval) (c : BitVec 2) : Int := v.baseVal + (v.delta * c.toNat) / 3

/-- The three lanes of the hue path (R71, R75): one shared interval, each lane its own selector. -/
def hueColour (t : Tables) (band : Band) (h : HueSlot) : Rgb :=
  let v := intervalOf t band
  let c := selectorsOf t h
  ⟨lerp v c.rsel, lerp v c.gsel, lerp v c.bsel⟩

/-- OUTMUX (R71): slot 0 takes the gray path, slots 1..18 the hue path. -/
def outmux (t : Tables) (band : Band) (slot : Slot) : Rgb :=
  if h : slot.val = 0 then ⟨grayOf t band, grayOf t band, grayOf t band⟩
  else hueColour t band ⟨slot.val - 1, by omega⟩

/-- `encode(i)` for i in 0..132 (R72): total on its domain, reads no register, cannot fault. -/
def encodeIndex (t : Tables) (i : Index) : Rgb := outmux t (bandOf i) (slotOf i)

/-- The effect of ENC once it is legal (R63, R65): the domain check, then the colour. -/
def encBody (idxf : BitVec 8) (s : State) : State :=
  if h : idxf.toNat < 133 then respond 0#4 (encPayload (encodeIndex tables ⟨idxf.toNat, h⟩)) s
  else raiseFault .domainViolation s

/-- ENC (R63): legal in IDLE, RUN and DONE. -/
def execEnc (idxf : BitVec 8) (s : State) : Host.Outcome State Fault Refusal :=
  perform [.idle, .run, .done] s (encBody idxf)

end Sys2Proof.Machine
end

