-- ==== Sys2Proof/Machine/Analyzer.lean ====
section
/-!
DEFINITION. The analyzer half (41_analyzer.md): the comparator ECMP (R84), the accumulator EACC (R85), and the commands
ACLR (R82), ACMP (R83), AFIN (R86) and RDS (R87). The comparator is wired to the block's own `encode` (R94).
-/

namespace Sys2Proof.Machine

/-- ECMP (R84) on the three channels: computed minus reference, exact. -/
def errorsOf (computed reference : Rgb) : Rgb :=
  ⟨computed.r - reference.r, computed.g - reference.g, computed.b - reference.b⟩

/-- EACC (R85) for one error. MAXE and MINE are compared as signed values (R90). -/
def accumulate (e : Int) (s : State) : State :=
  { s with
    sumabs := s.sumabs + BitVec.ofNat 17 e.natAbs
    maxe := BitVec.ofInt 9 (max s.maxe.toInt e)
    mine := BitVec.ofInt 9 (min s.mine.toInt e)
    nz := if e ≠ 0 then s.nz + 1 else s.nz }

/-- EACC for one entry (R44, R85): red, green, blue in this order. -/
def accumulateEntry (e : Rgb) (s : State) : State :=
  accumulate e.b (accumulate e.g (accumulate e.r s))

/-- The effect of ACLR once it is legal (R82). -/
def aclrBody (s : State) : State :=
  respond 0#4 0#28 { clearPass s with phase := .run }

/-- ACLR (R82): legal in IDLE, RUN and DONE. -/
def execAclr (s : State) : Host.Outcome State Fault Refusal :=
  perform [.idle, .run, .done] s aclrBody

/-- The errors of the entry that IDX names against a reference colour (R83, R84). -/
def entryErrors (i : Index) (reference : Rgb) : Rgb := errorsOf (encodeIndex tables i) reference

/-- The effect of ACMP in RUN (R83): the count check, then compare, fold, count and answer.
DESIGN CHOICE: IDX above 133, which R16 calls no legal value, is turned away like 133; log entry 5. -/
def acmpBody (reference : Rgb) (s : State) : State :=
  if h : s.idx.toNat < 133 then
    let e := entryErrors ⟨s.idx.toNat, h⟩ reference
    respond 0#4 (acmpPayload e) { accumulateEntry e s with idx := s.idx + 1 }
  else raiseFault .inputShapeError s

/-- ACMP (R83): legal in RUN. -/
def execAcmp (rr rg rb : BitVec 8) (s : State) : Host.Outcome State Fault Refusal :=
  perform [.run] s (acmpBody (rgbOfFields rr rg rb))

/-- The effect of AFIN in RUN (R86): the length check, then the pass is closed. -/
def afinBody (s : State) : State :=
  if s.idx.toNat = 133 then respond 0#4 0#28 { s with phase := .done }
  else raiseFault .inputShapeError s

/-- AFIN (R86): legal in RUN. -/
def execAfin (s : State) : Host.Outcome State Fault Refusal :=
  perform [.run] s afinBody

/-- The effect of RDS in DONE (R87): the aggregate; no register is written. -/
def rdsBody (sel : Sel) (s : State) : State :=
  respond 0#4 (rdsPayload sel s) s

/-- RDS (R87): legal in DONE. -/
def execRds (sel : Sel) (s : State) : Host.Outcome State Fault Refusal :=
  perform [.done] s (rdsBody sel)

end Sys2Proof.Machine
end

