-- ==== Sys2Proof/Machine/Dispatch.lean ====
section
/-!
DEFINITION. One arm per command (30_encoding.md R47): a direct call of its meaning.
-/

namespace Sys2Proof.Machine

def exec (i : Instr) (s : State) : Host.Outcome State Fault Refusal :=
  match i with
  | .enc idxf => Sys2Proof.Machine.execEnc idxf s
  | .aclr => Sys2Proof.Machine.execAclr s
  | .acmp rr rg rb => Sys2Proof.Machine.execAcmp rr rg rb s
  | .afin => Sys2Proof.Machine.execAfin s
  | .rds sel => Sys2Proof.Machine.execRds sel s

end Sys2Proof.Machine
end

