-- ==== Sys2Proof/Machine/Fetch.lean ====
section
/-!
DEFINITION. One host action, taken and performed (00_scope.md R6, R7): a command word is decoded and executed, or is
illegal (30_encoding.md R59); a RESET has its effect (70_reset_and_hazards.md R119).
-/

namespace Sys2Proof.Machine

/-- One command word, whole: decode, then the command's meaning, or the illegal word's (R59, R106). -/
def runWord (w : Word) (s : State) : Host.Outcome State Fault Refusal :=
  match decode w with
  | .ok i => exec i s
  | .error _ => illegalWord s

/-- One host action (R8). -/
def runAction (a : HostAction) (s : State) : Host.Outcome State Fault Refusal :=
  match a with
  | .command w => runWord w s
  | .reset => .next (resetEvent s)

/-- The host action that puts on CMD the word numbered as spec/opcode_table.json numbers it. -/
def tableAction (nbits w : Nat) : HostAction := .command (BitVec.ofNat 32 (w % 2 ^ nbits))

end Sys2Proof.Machine
end

