-- ==== Sys2Proof/Machine/Step.lean ====
section
/-!
DEFINITION. One step of the block (00_scope.md R6): it takes the host's next action and performs it whole.
-/

namespace Sys2Proof.Machine

/-- One step. With no host action to come the block waits (R121) and nothing changes (DEDUCED, log entry 3). -/
def step (s : State) : Host.Outcome State Fault Refusal :=
  match takeAction s with
  | none => .next s
  | some (a, s') => runAction a s'

/-- The state with one command as the host's next action, before whatever the host does after it (log entry 4). -/
def State.withFetchWord (s : State) (nbits w : Nat) : State :=
  withActions (tableAction nbits w :: s.actions) s

end Sys2Proof.Machine
end

