-- ==== Sys2Proof/Machine/Assembler.lean ====
section
/-!
DEFINITION. The assembler notation of 30_encoding.md: the lines of R61, each as a term, with the host action it stands
for, and the pseudo-instructions of R62 with their expansions.
-/

namespace Sys2Proof.Machine

/-- One line of R61. Numbers and colours are as written; `.word w` may name any word, legal or not; `RESET` is no
command word but a reset event. -/
inductive AsmLine where
  | enc (n : Nat)
  | aclr
  | acmp (rrggbb : Nat)
  | afin
  | rds (sel : Sel)
  | word (w : Nat)
  | reset
deriving DecidableEq, Repr

/-- The ranges R61 gives the operands: n in 0..255, a colour of exactly six hexadecimal digits, a 32-bit word. -/
def AsmLine.wellFormed : AsmLine → Bool
  | .enc n => n < 256
  | .aclr => true
  | .acmp rrggbb => rrggbb < 0x1000000
  | .afin => true
  | .rds _ => true
  | .word w => w < 0x100000000
  | .reset => true

/-- The number R61 gives each `RDS` line. -/
def rdsLineWord : Sel → Nat
  | .sumabs => 0x50000000
  | .maxe => 0x50000001
  | .mine => 0x50000002
  | .nz => 0x50000003

/-- The host action of a well-formed line (R61: the sums of its second column). -/
def AsmLine.action : AsmLine → HostAction
  | .enc n => .command (BitVec.ofNat 32 (0x10000000 + n))
  | .aclr => .command (BitVec.ofNat 32 0x20000000)
  | .acmp rrggbb => .command (BitVec.ofNat 32 (0x30000000 + rrggbb))
  | .afin => .command (BitVec.ofNat 32 0x40000000)
  | .rds sel => .command (BitVec.ofNat 32 (rdsLineWord sel))
  | .word w => .command (BitVec.ofNat 32 w)
  | .reset => .reset

/-- The assembler: an ill-formed line has no host action. -/
def assemble (l : AsmLine) : Option HostAction := if l.wellFormed then some l.action else none

/-- The pseudo-instructions of R62. -/
inductive Pseudo where
  | analyze (ref : List (BitVec 24))
  | rdstats
  | selftest
deriving DecidableEq, Repr

/-- `ACMP` of one colour word (R50, R57). -/
def acmpOf (w : BitVec 24) : Instr :=
  .acmp (w.extractLsb' 16 8) (w.extractLsb' 8 8) (w.extractLsb' 0 8)

/-- `ANALYZE ref` (R62): ACLR, one ACMP per colour word, AFIN. -/
def analyze (ref : List (BitVec 24)) : List Instr := .aclr :: (ref.map acmpOf ++ [.afin])

/-- `RDSTATS` (R62). -/
def rdstats : List Instr := [.rds .sumabs, .rds .maxe, .rds .mine, .rds .nz]

/-- The colour words e[0] .. e[132] of R62: PAY[23:0] of the response to `ENC i`. -/
def ownPalette : List (BitVec 24) := (List.finRange 133).map fun i => rgb24 (encodeIndex tables i)

/-- The commands `ENC 0` .. `ENC 132`. -/
def encAll : List Instr := (List.finRange 133).map fun i => .enc (BitVec.ofNat 8 i.val)

/-- The expansion of a pseudo-instruction (R62). SELFTEST begins with the 133 ENC commands whose responses e is made
of, as program P2 of 95_test_vectors.md and 90_conflicts.md C11 count them; DEDUCED, log entry 11. -/
def expand : Pseudo → List Instr
  | .analyze ref => analyze ref
  | .rdstats => rdstats
  | .selftest => encAll ++ analyze ownPalette ++ rdstats

end Sys2Proof.Machine
end

