-- ==== Sys2Proof/Machine/Observe.lean ====
section
/-!
DEFINITION. What the reader of the block forms from what the block gives: the summary scalars as exact rationals
(41_analyzer.md R88) and the per-channel error sequences (R89). None of it is state and no command reads it.
-/

namespace Sys2Proof.Machine

/-- MAE = SUMABS / 399 (R88). -/
def mae (s : State) : ℚ := s.sumabs.toNat / 399

/-- max error = MAXE (R88). -/
def maxError (s : State) : Int := s.maxe.toInt

/-- min error = MINE (R88). -/
def minError (s : State) : Int := s.mine.toInt

/-- percentCorrect = 100 × (1 - NZ / 399) (R88). -/
def percentCorrect (s : State) : ℚ := 100 * (1 - s.nz.toNat / 399)

/-- The red sequence of a list of ACMP responses (R89). -/
def redSequence (ws : List Word) : List Int := ws.map fun w => (respErrors w).r

/-- The green sequence (R89). -/
def greenSequence (ws : List Word) : List Int := ws.map fun w => (respErrors w).g

/-- The blue sequence (R89). -/
def blueSequence (ws : List Word) : List Int := ws.map fun w => (respErrors w).b

end Sys2Proof.Machine
end

