-- ==== Sys2Proof/Safety.lean ====
section
/-!
DEFINITION. The terms claims use: runs (00_scope.md R8), good runs (70_reset_and_hazards.md R126), the invariants of
10_state.md R29, the phase table of 41_analyzer.md R81, and the errors of a whole pass (R95).
-/

namespace Sys2Proof.Safety

open Sys2Proof.Machine

/-- `n` steps of the machine (R8). -/
def runSteps : Nat → State → Host.Outcome State Fault Refusal
  | 0, s => .next s
  | n + 1, s =>
    match step s with
    | .next t => runSteps n t
    | .fault r => .fault r
    | .refused r => .refused r

/-- The run in which the host gives exactly the command words `ws`, one step each. -/
def runWords (ws : List Word) (s : State) : Host.Outcome State Fault Refusal :=
  runSteps ws.length (withActions (ws.map .command) s)

/-- The run of the words of a list of commands. -/
def runInstrs (is : List Instr) (s : State) : Host.Outcome State Fault Refusal := runWords (is.map encode) s

/-- Two states with the same seven registers (R13). -/
structure SameRegisters (s t : State) : Prop where
  phase : s.phase = t.phase
  cause : s.cause = t.cause
  idx : s.idx = t.idx
  sumabs : s.sumabs = t.sumabs
  maxe : s.maxe = t.maxe
  mine : s.mine = t.mine
  nz : s.nz = t.nz

/-- The state in which the host's next action has been taken and answered with the word `x`, no register written. -/
def afterAnswer (s : State) (rest : List HostAction) (x : Word) : State :=
  { s with actions := rest, responses := s.responses ++ [x] }

/-- The word is an ENC whose index is in the encoder's domain. -/
def inDomainEnc (w : Word) : Bool :=
  match decode w with
  | .ok (.enc idxf) => idxf.toNat < 133
  | .ok .aclr | .ok (.acmp _ _ _) | .ok .afin | .ok (.rds _) | .error _ => false

/-- No response in the list reports a fault (R126). -/
def NoFaultReported (ws : List Word) : Prop := ∀ w ∈ ws, respStatus w = 0

/-- A pass is open or complete. -/
abbrev InPass (s : State) : Prop := s.phase = .run ∨ s.phase = .done

/-- The invariants of R29, one field for each of its points. -/
structure MachineInv (s : State) : Prop where
  /-- IDX ≤ 133. -/
  idx_le : s.idx.toNat ≤ 133
  /-- PHASE = IDLE implies the reset values. -/
  idle : s.phase = .idle →
    s.idx = 0 ∧ s.sumabs = 0 ∧ s.nz = 0 ∧ s.maxe.toInt = -255 ∧ s.mine.toInt = 255 ∧ s.cause = none
  /-- PHASE = DONE implies a full pass and no fault. -/
  done : s.phase = .done → s.idx = 133 ∧ s.cause = none
  /-- PHASE = FAULTED exactly when CAUSE ≠ 0. -/
  faulted : s.phase = .faulted ↔ s.cause ≠ none
  /-- In RUN and DONE: NZ ≤ 3 × IDX; NZ ≤ SUMABS ≤ 255 × NZ; MINE and MAXE in -255..255. -/
  counts : InPass s →
    s.nz.toNat ≤ 3 * s.idx.toNat ∧ s.nz.toNat ≤ s.sumabs.toNat ∧ s.sumabs.toNat ≤ 255 * s.nz.toNat ∧
    -255 ≤ s.mine.toInt ∧ s.mine.toInt ≤ 255 ∧ -255 ≤ s.maxe.toInt ∧ s.maxe.toInt ≤ 255
  /-- In RUN and DONE with IDX ≥ 1. -/
  extremes : InPass s → 1 ≤ s.idx.toNat →
    s.mine.toInt ≤ s.maxe.toInt ∧ (s.sumabs = 0 ↔ s.nz = 0) ∧ (s.nz = 0 ↔ s.mine.toInt = 0 ∧ s.maxe.toInt = 0) ∧
    s.maxe.toInt.natAbs ≤ s.sumabs.toNat ∧ s.mine.toInt.natAbs ≤ s.sumabs.toNat
  /-- In RUN with IDX = 0. -/
  empty : s.phase = .run → s.idx = 0 → s.maxe.toInt = -255 ∧ s.mine.toInt = 255

/-- The phase after a well-formed command: the table of R81, with the two operand checks it names and ENC's domain
check (R65). DESIGN CHOICE, log entry 5: FAULTED after ACMP in RUN with IDX above 133, where the table has no entry. -/
def phaseAfter (i : Instr) (s : State) : Phase :=
  match i with
  | .enc idxf =>
    match s.phase with
    | .faulted => .faulted
    | .idle | .run | .done => if idxf.toNat ≤ 132 then s.phase else .faulted
  | .aclr =>
    match s.phase with
    | .faulted => .faulted
    | .idle | .run | .done => .run
  | .acmp _ _ _ =>
    match s.phase with
    | .run => if s.idx.toNat < 133 then .run else .faulted
    | .idle | .done | .faulted => .faulted
  | .afin =>
    match s.phase with
    | .run => if s.idx.toNat = 133 then .done else .faulted
    | .idle | .done | .faulted => .faulted
  | .rds _ =>
    match s.phase with
    | .done => .done
    | .idle | .run | .faulted => .faulted

/-- The errors e(k, X) of a pass over the reference `ref` at index k, in the order red, green, blue (R95). -/
def channelErrors (ref : Index → BitVec 24) (k : Index) : List Int :=
  let c := encodeIndex tables k
  let w := rgbOfRgb24 (ref k)
  [c.r - w.r, c.g - w.g, c.b - w.b]

/-- The 399 errors of a pass over the reference `ref`, in index order (R95). -/
def passErrors (ref : Index → BitVec 24) : List Int := (List.finRange 133).flatMap (channelErrors ref)

/-- The 133 responses of the ACMP commands of a pass over the reference `ref` (R89): status 0, bit 27 zero, and the
three errors of the index in nine bits each. -/
def passResponses (ref : Index → BitVec 24) : List Word :=
  (List.finRange 133).map fun k =>
    let c := encodeIndex tables k
    let w := rgbOfRgb24 (ref k)
    0#5 ++ BitVec.ofInt 9 (c.r - w.r) ++ BitVec.ofInt 9 (c.g - w.g) ++ BitVec.ofInt 9 (c.b - w.b)

end Sys2Proof.Safety
end

