-- ==== Sys2Proof/Certificates/Slice0/Obligations.lean ====
section
/-!
DEFINITION. The statements for the provers, from the numbered rules of spec/.
-/

open Sys2Proof Sys2Proof.Machine Sys2Proof.Safety Sys2Proof.WellFormed

/-! ## Command words -/

/-- A step runs the decoded command on the state from which the host's action has been taken (R6); with no host action
to come nothing changes (the model's choice, log entry 3). -/
def Obligations.StepRunsDecodedCommand : Prop :=
  (∀ (s : State) (w : Word) (rest : List HostAction) (i : Instr),
    s.actions = .command w :: rest → decode w = .ok i → step s = exec i (withActions rest s)) ∧
  (∀ s : State, s.actions = [] → step s = .next s)

/-- R47: the match/mask rows, their ARG layouts, their disjointness, and the two illegal words it names. -/
def Obligations.OpcodeMapIsTheDecoder : Prop :=
  (∀ (w : Word) (i : Instr), decode w = .ok i → ∃ r ∈ opcodeRows, r.mnemonic = mnemonic i ∧ r.selects w = true) ∧
  (∀ (w : Word), ∀ r ∈ opcodeRows, r.selects w = true → ∃ i, decode w = .ok i ∧ mnemonic i = r.mnemonic) ∧
  (∀ (w : Word) (x : BitVec 8), decode w = .ok (.enc x) → w.extractLsb' 8 24 = 0x100000#24 ∧ x = w.extractLsb' 0 8) ∧
  (∀ (w : Word), decode w = .ok .aclr ↔ w = 0x20000000#32) ∧
  (∀ (w : Word) (rr rg rb : BitVec 8), decode w = .ok (.acmp rr rg rb) →
    w.extractLsb' 24 8 = 0x30#8 ∧ rr = w.extractLsb' 16 8 ∧ rg = w.extractLsb' 8 8 ∧ rb = w.extractLsb' 0 8) ∧
  (∀ (w : Word), decode w = .ok .afin ↔ w = 0x40000000#32) ∧
  (∀ (w : Word) (sel : Sel), decode w = .ok (.rds sel) →
    w.extractLsb' 2 30 = 0x14000000#30 ∧ selBits sel = w.extractLsb' 0 2) ∧
  (∀ (w : Word), ∀ r ∈ opcodeRows, ∀ r' ∈ opcodeRows, r.selects w = true → r'.selects w = true → r = r') ∧
  (∃ e, decode 0 = .error e) ∧ (∃ e, decode (BitVec.allOnes 32) = .error e)

/-- R46, R59: every word matches exactly one row or is illegal, and the decoder tells the two apart. -/
def Obligations.DecoderIsTotalAndExact : Prop :=
  ∀ w : Word, ((∃ i, decode w = .ok i) ↔ ∃! r, r ∈ opcodeRows ∧ r.selects w = true) ∧
    ((∃ e, decode w = .error e) ↔ wordIllegal w = true)

/-- Decoding the word of a command gives the command, for every command and every operand. -/
def Obligations.DecodeOfEncode : Prop :=
  ∀ i : Instr, decode (encode i) = .ok i

/-- No two words decode to one command: the word is the command's encoding. -/
def Obligations.EncodeOfDecode : Prop :=
  ∀ (w : Word) (i : Instr), decode w = .ok i → encode i = w

/-- Words of R61's examples and of 95_test_vectors.md, written out. -/
def Obligations.WrittenOutWordsDecode : Prop :=
  decode 0x10000001#32 = .ok (.enc 1) ∧ decode 0x20000000#32 = .ok .aclr ∧
  decode 0x30FFD4BF#32 = .ok (.acmp 0xFF 0xD4 0xBF) ∧ decode 0x40000000#32 = .ok .afin ∧
  decode 0x50000002#32 = .ok (.rds .mine)

/-- R61: each assembly line stands for the word of its second column, and that word decodes to the command written. -/
def Obligations.AssembledLinesDecode : Prop :=
  (∀ n, n < 256 → ∃ w, assemble (.enc n) = some (.command w) ∧ w.toNat = 0x10000000 + n ∧
    decode w = .ok (.enc (BitVec.ofNat 8 n))) ∧
  (∃ w, assemble .aclr = some (.command w) ∧ w.toNat = 0x20000000 ∧ decode w = .ok .aclr) ∧
  (∀ r g b : BitVec 8, ∃ w, assemble (.acmp (65536 * r.toNat + 256 * g.toNat + b.toNat)) = some (.command w) ∧
    w.toNat = 0x30000000 + (65536 * r.toNat + 256 * g.toNat + b.toNat) ∧ decode w = .ok (.acmp r g b)) ∧
  (∃ w, assemble .afin = some (.command w) ∧ w.toNat = 0x40000000 ∧ decode w = .ok .afin) ∧
  (∀ sel, ∃ w, assemble (.rds sel) = some (.command w) ∧ w.toNat = 0x50000000 + (selBits sel).toNat ∧
    decode w = .ok (.rds sel)) ∧
  (∀ w : Word, assemble (.word w.toNat) = some (.command w)) ∧
  assemble .reset = some .reset ∧
  (∀ n, 256 ≤ n → assemble (.enc n) = none)

/-- R59: an illegal word raises IllegalOperation, or is refused by a FAULTED block. -/
def Obligations.IllegalWordFaults : Prop :=
  ∀ (s : State) (w : Word) (rest : List HostAction), s.actions = .command w :: rest → wordIllegal w = true →
    step s = .next
      (if s.phase = .faulted then afterAnswer s rest (statusOfCause s.cause ++ 0#28)
       else { afterAnswer s rest 0x40000000#32 with phase := .faulted, cause := some .illegalOperation })

/-! ## The five commands, by their pseudocode -/

/-- R63: a word with OP = 0x1. -/
def Obligations.EncFollowsItsRule : Prop :=
  ∀ (s : State) (w : Word) (rest : List HostAction),
    s.actions = .command w :: rest → w.extractLsb' 28 4 = 0x1#4 →
    step s = .next
      (if s.phase = .faulted then afterAnswer s rest (statusOfCause s.cause ++ 0#28)
       else if wordIllegal w = true then
         { afterAnswer s rest 0x40000000#32 with phase := .faulted, cause := some .illegalOperation }
       else if h : (w.extractLsb' 0 8).toNat < 133 then
         let c := encodeIndex tables ⟨(w.extractLsb' 0 8).toNat, h⟩
         afterAnswer s rest (0#8 ++ BitVec.ofInt 8 c.r ++ BitVec.ofInt 8 c.g ++ BitVec.ofInt 8 c.b)
       else { afterAnswer s rest 0x10000000#32 with phase := .faulted, cause := some .domainViolation })

/-- R82: a word with OP = 0x2. -/
def Obligations.AclrFollowsItsRule : Prop :=
  ∀ (s : State) (w : Word) (rest : List HostAction),
    s.actions = .command w :: rest → w.extractLsb' 28 4 = 0x2#4 →
    step s = .next
      (if s.phase = .faulted then afterAnswer s rest (statusOfCause s.cause ++ 0#28)
       else if wordIllegal w = true then
         { afterAnswer s rest 0x40000000#32 with phase := .faulted, cause := some .illegalOperation }
       else
         { afterAnswer s rest 0#32 with
           idx := 0, sumabs := 0, maxe := 0b100000001#9, mine := 0b011111111#9, nz := 0, phase := .run })

/-- R83: a word with OP = 0x3, in every state whose IDX is a legal value of R16. -/
def Obligations.AcmpFollowsItsRule : Prop :=
  ∀ (s : State) (w : Word) (rest : List HostAction),
    s.actions = .command w :: rest → w.extractLsb' 28 4 = 0x3#4 → s.idx.toNat ≤ 133 →
    step s = .next
      (if s.phase = .faulted then afterAnswer s rest (statusOfCause s.cause ++ 0#28)
       else if wordIllegal w = true then
         { afterAnswer s rest 0x40000000#32 with phase := .faulted, cause := some .illegalOperation }
       else if s.phase ≠ .run then
         { afterAnswer s rest 0x40000000#32 with phase := .faulted, cause := some .illegalOperation }
       else if h : s.idx.toNat < 133 then
         let c := encodeIndex tables ⟨s.idx.toNat, h⟩
         let er := c.r - (w.extractLsb' 16 8).toNat
         let eg := c.g - (w.extractLsb' 8 8).toNat
         let eb := c.b - (w.extractLsb' 0 8).toNat
         { afterAnswer s rest (0#5 ++ BitVec.ofInt 9 er ++ BitVec.ofInt 9 eg ++ BitVec.ofInt 9 eb) with
           sumabs := s.sumabs + BitVec.ofNat 17 (er.natAbs + eg.natAbs + eb.natAbs),
           maxe := BitVec.ofInt 9 (max (max (max s.maxe.toInt er) eg) eb),
           mine := BitVec.ofInt 9 (min (min (min s.mine.toInt er) eg) eb),
           nz := s.nz + BitVec.ofNat 9 ([er, eg, eb].countP (· ≠ 0)),
           idx := s.idx + 1 }
       else { afterAnswer s rest 0x20000000#32 with phase := .faulted, cause := some .inputShapeError })

/-- R86: a word with OP = 0x4. -/
def Obligations.AfinFollowsItsRule : Prop :=
  ∀ (s : State) (w : Word) (rest : List HostAction),
    s.actions = .command w :: rest → w.extractLsb' 28 4 = 0x4#4 →
    step s = .next
      (if s.phase = .faulted then afterAnswer s rest (statusOfCause s.cause ++ 0#28)
       else if wordIllegal w = true then
         { afterAnswer s rest 0x40000000#32 with phase := .faulted, cause := some .illegalOperation }
       else if s.phase ≠ .run then
         { afterAnswer s rest 0x40000000#32 with phase := .faulted, cause := some .illegalOperation }
       else if s.idx ≠ 133 then
         { afterAnswer s rest 0x20000000#32 with phase := .faulted, cause := some .inputShapeError }
       else { afterAnswer s rest 0#32 with phase := .done })

/-- R87: a word with OP = 0x5. -/
def Obligations.RdsFollowsItsRule : Prop :=
  ∀ (s : State) (w : Word) (rest : List HostAction),
    s.actions = .command w :: rest → w.extractLsb' 28 4 = 0x5#4 →
    step s = .next
      (if s.phase = .faulted then afterAnswer s rest (statusOfCause s.cause ++ 0#28)
       else if wordIllegal w = true then
         { afterAnswer s rest 0x40000000#32 with phase := .faulted, cause := some .illegalOperation }
       else if s.phase ≠ .done then
         { afterAnswer s rest 0x40000000#32 with phase := .faulted, cause := some .illegalOperation }
       else if w.extractLsb' 0 2 = 0#2 then afterAnswer s rest (BitVec.ofNat 32 s.sumabs.toNat)
       else if w.extractLsb' 0 2 = 1#2 then afterAnswer s rest (0#4 ++ s.maxe.signExtend 28)
       else if w.extractLsb' 0 2 = 2#2 then afterAnswer s rest (0#4 ++ s.mine.signExtend 28)
       else afterAnswer s rest (BitVec.ofNat 32 s.nz.toNat))

/-! ## Where each command completes, and what it leaves unchanged -/

/-- ENC completes on every index 0..132 in every phase but FAULTED: only the response is new (R63, D32). -/
def Obligations.EncCompletes : Prop :=
  ∀ (s : State) (idxf : BitVec 8) (h : idxf.toNat < 133), s.phase ≠ .faulted →
    ∃ x, exec (.enc idxf) s = .next { s with responses := s.responses ++ [x] } ∧ respStatus x = 0 ∧
      x.extractLsb' 24 4 = 0#4 ∧
      ((x.extractLsb' 16 8).toNat : Int) = (encodeIndex tables ⟨idxf.toNat, h⟩).r ∧
      ((x.extractLsb' 8 8).toNat : Int) = (encodeIndex tables ⟨idxf.toNat, h⟩).g ∧
      ((x.extractLsb' 0 8).toNat : Int) = (encodeIndex tables ⟨idxf.toNat, h⟩).b

/-- ACLR completes in every phase but FAULTED (R82), and a second ACLR changes no register. -/
def Obligations.AclrCompletes : Prop :=
  ∀ s : State, s.phase ≠ .faulted →
    ∃ t, exec .aclr s = .next t ∧
      t = { s with phase := .run, idx := 0, sumabs := 0, maxe := 0b100000001#9, mine := 0b011111111#9, nz := 0,
                   responses := s.responses ++ [0#32] } ∧
      exec .aclr t = .next { t with responses := t.responses ++ [0#32] }

/-- ACMP completes in RUN with fewer than 133 entries compared; in a state that meets the invariants the accumulators
hold the exact results (R83, R85, R90). -/
def Obligations.AcmpCompletesExactly : Prop :=
  ∀ (s : State) (rr rg rb : BitVec 8) (h : s.idx.toNat < 133), s.phase = .run → MachineInv s →
    let c := encodeIndex tables ⟨s.idx.toNat, h⟩
    let er := c.r - rr.toNat
    let eg := c.g - rg.toNat
    let eb := c.b - rb.toNat
    ∃ t, exec (.acmp rr rg rb) s = .next t ∧
      t.sumabs.toNat = s.sumabs.toNat + er.natAbs + eg.natAbs + eb.natAbs ∧
      t.maxe.toInt = max (max (max s.maxe.toInt er) eg) eb ∧
      t.mine.toInt = min (min (min s.mine.toInt er) eg) eb ∧
      t.nz.toNat = s.nz.toNat + [er, eg, eb].countP (· ≠ 0) ∧
      t.idx.toNat = s.idx.toNat + 1 ∧
      t.phase = .run ∧ t.cause = s.cause ∧ t.actions = s.actions ∧
      t.responses = s.responses ++ [0#5 ++ BitVec.ofInt 9 er ++ BitVec.ofInt 9 eg ++ BitVec.ofInt 9 eb]

/-- AFIN completes in RUN at IDX = 133 and writes PHASE only (R86). -/
def Obligations.AfinCompletes : Prop :=
  ∀ s : State, s.phase = .run → s.idx = 133 →
    exec .afin s = .next { s with phase := .done, responses := s.responses ++ [0#32] }

/-- RDS completes in DONE, writes no register, and the payload read as unsigned or signed is the aggregate (R54,
R87). -/
def Obligations.RdsCompletesExactly : Prop :=
  ∀ (s : State) (sel : Sel), s.phase = .done →
    ∃ x, exec (.rds sel) s = .next { s with responses := s.responses ++ [x] } ∧ respStatus x = 0 ∧
      (sel = .sumabs → (respPayload x).toNat = s.sumabs.toNat) ∧
      (sel = .maxe → (respPayload x).toInt = s.maxe.toInt) ∧
      (sel = .mine → (respPayload x).toInt = s.mine.toInt) ∧
      (sel = .nz → (respPayload x).toNat = s.nz.toNat)

/-! ## The encoder -/

/-- R72, for every content of the tables: the gray path for slot 0, the three interpolated channels for slot 1..18. -/
def Obligations.EncodeFollowsTheFormula : Prop :=
  ∀ (t : Tables) (band : Band) (slot : Slot) (i : Index), i.val = 19 * band.val + slot.val →
    (slot.val = 0 →
      encodeIndex t i = ⟨((t.gray band).toNat : Int), ((t.gray band).toNat : Int), ((t.gray band).toNat : Int)⟩) ∧
    (∀ a : HueSlot, slot.val = a.val + 1 →
      let code := (t.hue a).toNat
      let b : Int := (t.base band).toNat
      let top : Int := (t.top band).toNat
      let baseVal : Int := if b > 0 then b - 1 else 0
      let delta : Int := top - 1 - baseVal
      encodeIndex t i = ⟨baseVal + (delta * (code / 16 : Nat)) / 3, baseVal + (delta * (code / 4 % 4 : Nat)) / 3,
        baseVal + (delta * (code % 4 : Nat)) / 3⟩)

/-- R73, under the premises 93_implementation_defined.md U6 names for other tables, which the block's tables meet. -/
def Obligations.ChannelsStayInRange : Prop :=
  (∀ t : Tables, tableCheck t = true → (∀ b, 1 ≤ (t.top b).toNat ∧ (t.top b).toNat ≤ 256) →
    ∀ i : Index, (0 ≤ (encodeIndex t i).r ∧ (encodeIndex t i).r ≤ 255) ∧
      (0 ≤ (encodeIndex t i).g ∧ (encodeIndex t i).g ≤ 255) ∧ (0 ≤ (encodeIndex t i).b ∧ (encodeIndex t i).b ≤ 255)) ∧
  tableCheck tables = true ∧ (∀ b, 1 ≤ (tables.top b).toNat ∧ (tables.top b).toNat ≤ 256)

/-- R66: the stored gray values are the rounded ramp, and the all-integer form gives the same. -/
def Obligations.GrayTableIsTheRoundedRamp : Prop :=
  ∀ band : Band, grayOf tables band = round ((255 / 7 : ℚ) * (7 - (band.val : ℚ))) ∧
    grayOf tables band = (510 * (7 - (band.val : Int)) + 7) / 14

/-- R77: the gray ramp strictly decreases from band to band, as the table has it and as ENC answers it. -/
def Obligations.GrayRampStrictlyDecreases : Prop :=
  (List.finRange 7).map (grayOf tables) = [255, 219, 182, 146, 109, 73, 36] ∧
  ∀ (s : State) (a b : Band), s.phase ≠ .faulted → a < b →
    ∃ x y, exec (.enc (BitVec.ofNat 8 (19 * a.val))) s = .next { s with responses := s.responses ++ [x] } ∧
      exec (.enc (BitVec.ofNat 8 (19 * b.val))) s = .next { s with responses := s.responses ++ [y] } ∧
      ((x.extractLsb' 0 8).toNat : Int) = grayOf tables a ∧ ((y.extractLsb' 0 8).toNat : Int) = grayOf tables b ∧
      (y.extractLsb' 0 8).toNat < (x.extractLsb' 0 8).toNat

/-- R70, R79: selector 0 gives the base, selector 3 exactly the top, whatever the tables; and between them a greater
selector never gives a smaller value in an interval that is not negative. -/
def Obligations.SelectorsStepFromBaseToTop : Prop :=
  ∀ (t : Tables) (band : Band),
    lerp (intervalOf t band) 0 = (intervalOf t band).baseVal ∧
    lerp (intervalOf t band) 3 = (intervalOf t band).topVal ∧
    (0 ≤ (intervalOf t band).delta → ∀ c d : BitVec 2, c.toNat ≤ d.toNat →
      lerp (intervalOf t band) c ≤ lerp (intervalOf t band) d)

/-- R64, R55: band and slot are the one decomposition of the index in base 19. -/
def Obligations.IndexDecomposesInBase19 : Prop :=
  ∀ i : Index, i.val = 19 * (bandOf i).val + (slotOf i).val ∧
    ∀ (band : Band) (slot : Slot), i.val = 19 * band.val + slot.val → band = bandOf i ∧ slot = slotOf i

/-- R76: the response to ENC has three equal channels exactly at the multiples of 19. -/
def Obligations.AchromaticExactlyOnGray : Prop :=
  ∀ (s : State) (idxf : BitVec 8), idxf.toNat < 133 → s.phase ≠ .faulted →
    ∃ x, exec (.enc idxf) s = .next { s with responses := s.responses ++ [x] } ∧
      ((x.extractLsb' 16 8 = x.extractLsb' 8 8 ∧ x.extractLsb' 8 8 = x.extractLsb' 0 8) ↔ idxf.toNat % 19 = 0)

/-! ## No hidden state -/

/-- R27: response and registers after a command are a function of the word and the seven registers; R78: ENC with one
index gives one response in every state that is not FAULTED. -/
def Obligations.ResponseDependsOnRegistersOnly : Prop :=
  (∀ (s s' : State) (w : Word) (rest rest' : List HostAction), SameRegisters s s' →
    s.actions = .command w :: rest → s'.actions = .command w :: rest' →
    ∃ t t' x, step s = .next t ∧ step s' = .next t' ∧ SameRegisters t t' ∧
      t.responses = s.responses ++ [x] ∧ t'.responses = s'.responses ++ [x]) ∧
  (∀ (s s' : State) (idxf : BitVec 8), s.phase ≠ .faulted → s'.phase ≠ .faulted →
    ∃ t t' x, exec (.enc idxf) s = .next t ∧ exec (.enc idxf) s' = .next t' ∧
      t.responses = s.responses ++ [x] ∧ t'.responses = s'.responses ++ [x])

/-! ## The analyzer -/

/-- R58, R89: the host reads the three errors of the index compared back from the response of an ACMP, and no field
holds the pattern of -256. -/
def Obligations.ErrorTripleReadsBack : Prop :=
  ∀ (s : State) (rr rg rb : BitVec 8) (h : s.idx.toNat < 133), s.phase = .run →
    ∃ t x, exec (.acmp rr rg rb) s = .next t ∧ t.responses = s.responses ++ [x] ∧ respStatus x = 0 ∧
      respErrors x = errorsOf (encodeIndex tables ⟨s.idx.toNat, h⟩) ⟨rr.toNat, rg.toNat, rb.toNat⟩ ∧
      x.extractLsb' 18 9 ≠ 0b100000000#9 ∧ x.extractLsb' 9 9 ≠ 0b100000000#9 ∧ x.extractLsb' 0 9 ≠ 0b100000000#9

/-- R43: errors folded in any order give the same accumulators. -/
def Obligations.AccumulationOrderIrrelevant : Prop :=
  ∀ (l l' : List Int) (s : State), l.Perm l' → (∀ e ∈ l, -255 ≤ e ∧ e ≤ 255) →
    l.foldl (fun a e => accumulate e a) s = l'.foldl (fun a e => accumulate e a) s

/-- A reference equal to the computed colour answers 0 and adds nothing to SUMABS and NZ (R83, read with its pseudocode:
log entry 9). -/
def Obligations.EqualReferenceHasNoError : Prop :=
  ∀ (s : State) (rr rg rb : BitVec 8) (h : s.idx.toNat < 133), s.phase = .run →
    encodeIndex tables ⟨s.idx.toNat, h⟩ = ⟨rr.toNat, rg.toNat, rb.toNat⟩ →
    exec (.acmp rr rg rb) s = .next { s with
      maxe := BitVec.ofInt 9 (max s.maxe.toInt 0), mine := BitVec.ofInt 9 (min s.mine.toInt 0), idx := s.idx + 1,
      responses := s.responses ++ [0#32] }

/-- The phase after every command in every phase: the table of R81. It has no entry for ACMP in RUN with IDX above 133, a
state no run reaches; that the block ends in FAULTED there is the model's DESIGN CHOICE, log entry 5. -/
def Obligations.PhaseTableHolds : Prop :=
  ∀ (i : Instr) (s : State), ∃ t, exec i s = .next t ∧ t.phase = phaseAfter i s

/-- R16, R30, R91: only ACMP (plus 1) and ACLR (to 0) write IDX. -/
def Obligations.OnlyAclrAndAcmpMoveIdx : Prop :=
  ∀ (s t : State) (w : Word) (rest : List HostAction),
    s.actions = .command w :: rest → step s = .next t → t.idx ≠ s.idx →
    (∃ rr rg rb, decode w = .ok (.acmp rr rg rb) ∧ s.phase = .run ∧ s.idx.toNat < 133 ∧
      t.idx.toNat = s.idx.toNat + 1) ∨
    (decode w = .ok .aclr ∧ s.phase ≠ .faulted ∧ t.idx = 0)

/-! ## Faults -/

/-- R101: the four faults, their codes, and exactly which commands raise each, in every state whose IDX is a legal
value of R16. -/
def Obligations.EachFaultRaisedByItsRule : Prop :=
  (∀ (s t : State) (w : Word) (rest : List HostAction), s.actions = .command w :: rest → s.phase ≠ .faulted →
    s.idx.toNat ≤ 133 → step s = .next t →
    ((t.phase = .faulted ∧ t.cause = some .domainViolation) ↔ ∃ x, decode w = .ok (.enc x) ∧ 133 ≤ x.toNat) ∧
    ((t.phase = .faulted ∧ t.cause = some .inputShapeError) ↔
      s.phase = .run ∧ ((∃ rr rg rb, decode w = .ok (.acmp rr rg rb)) ∧ s.idx.toNat = 133 ∨
        decode w = .ok .afin ∧ s.idx.toNat < 133)) ∧
    ((t.phase = .faulted ∧ t.cause = some .illegalOperation) ↔
      wordIllegal w = true ∨
      ((∃ rr rg rb, decode w = .ok (.acmp rr rg rb)) ∨ decode w = .ok .afin) ∧ s.phase ≠ .run ∨
      (∃ sel, decode w = .ok (.rds sel)) ∧ s.phase ≠ .done) ∧
    ¬ (t.phase = .faulted ∧ t.cause = some .degenerateTable)) ∧
  (∀ tb : Tables, (State.afterReset tb).cause = some .degenerateTable ↔ tableCheck tb = false) ∧
  FaultCause.code .domainViolation = 1 ∧ FaultCause.code .inputShapeError = 2 ∧
  FaultCause.code .degenerateTable = 3 ∧ FaultCause.code .illegalOperation = 4

/-- R107, R108: a command that enters FAULTED writes CAUSE and PHASE, answers the code, and does nothing else. -/
def Obligations.FaultEntryIsPrecise : Prop :=
  ∀ (s t : State) (w : Word) (rest : List HostAction),
    s.actions = .command w :: rest → step s = .next t → s.phase ≠ .faulted → t.phase = .faulted →
    ∃ c : FaultCause, t = { afterAnswer s rest (c.code ++ 0#28) with cause := some c, phase := .faulted }

/-- R109: in FAULTED every word, legal or not, is answered with the cause and changes nothing. -/
def Obligations.FaultedRefusesEveryWord : Prop :=
  ∀ (s : State) (w : Word) (rest : List HostAction), s.actions = .command w :: rest → s.phase = .faulted →
    step s = .next (afterAnswer s rest (statusOfCause s.cause ++ 0#28))

/-- R110: no step but a RESET leaves FAULTED or changes CAUSE there, and the RESET discards all state. -/
def Obligations.OnlyResetLeavesFaulted : Prop :=
  ∀ s t : State, s.phase = .faulted → step s = .next t → t.phase ≠ .faulted ∨ t.cause ≠ s.cause →
    ∃ rest, s.actions = .reset :: rest ∧
      t = { State.reset with actions := rest, responses := s.responses }

/-- R53: the status of every response is CAUSE as it stands after the command, 0..4 by the table of the rule; it is not
0 exactly when the block is FAULTED after the command, and then the payload is 0 (R52). -/
def Obligations.StatusIsTheCause : Prop :=
  ∀ (s : State) (w : Word) (rest : List HostAction), s.actions = .command w :: rest → MachineInv s →
    ∃ t x, step s = .next t ∧ t.responses = s.responses ++ [x] ∧
      (respStatus x).toNat =
        (match t.cause with
         | none => 0
         | some .domainViolation => 1
         | some .inputShapeError => 2
         | some .degenerateTable => 3
         | some .illegalOperation => 4) ∧
      (respStatus x ≠ 0 ↔ t.phase = .faulted) ∧ (respStatus x ≠ 0 → respPayload x = 0)

/-! ## Reset and the host -/

/-- R28: the reset value of every register, the two registers that differ if the table check fails, and the constants of
R22 to R25. -/
def Obligations.ResetValuesAreTheListedOnes : Prop :=
  State.reset = { phase := .idle, cause := none, idx := 0, sumabs := 0, maxe := 0b100000001#9, mine := 0b011111111#9,
                  nz := 0, actions := [], responses := [] } ∧
  (∀ tb : Tables, State.afterReset tb =
    if tableCheck tb = true then State.reset
    else { State.reset with phase := .faulted, cause := some .degenerateTable }) ∧
  (List.finRange 18).map tables.hue =
    [0x34, 0x38, 0x3C, 0x2C, 0x1C, 0x0C, 0x0D, 0x0E, 0x0F, 0x0B, 0x07, 0x03, 0x13, 0x23, 0x33, 0x32, 0x31, 0x30] ∧
  (List.finRange 7).map tables.base = [192, 144, 96, 64, 0, 0, 0] ∧
  (List.finRange 7).map tables.top = [256, 192, 192, 192, 256, 192, 128] ∧
  (List.finRange 7).map tables.gray = [255, 219, 182, 146, 109, 73, 36]

/-- R119: the RESET event writes every register and answers nothing, from every state; the block's tables pass the
check. -/
def Obligations.ResetEventForgetsEverything : Prop :=
  tableCheck tables = true ∧
  ∀ (s : State) (rest : List HostAction), s.actions = .reset :: rest →
    step s = .next { phase := if tableCheck tables = true then .idle else .faulted,
                     cause := if tableCheck tables = true then none else some .degenerateTable,
                     idx := 0, sumabs := 0, maxe := BitVec.ofInt 9 (-255), mine := BitVec.ofInt 9 255, nz := 0,
                     actions := rest, responses := s.responses }

/-- R120: what the table check says, that the block's tables pass it, and that passing it is not enough for the range
invariant. -/
def Obligations.TableCheckComparesEveryBand : Prop :=
  (∀ tb : Tables, tableCheck tb = true ↔ ∀ b, (tb.base b).toNat ≤ (tb.top b).toNat) ∧
  tableCheck tables = true ∧
  (∀ b, (tables.top b).toNat ≤ 256 ∧ (tables.base b = 0 → 1 ≤ (tables.top b).toNat)) ∧
  (∃ tb : Tables, tableCheck tb = true ∧ ∃ i, 255 < (encodeIndex tb i).r) ∧
  (∃ tb : Tables, tableCheck tb = true ∧ (∀ b, (tb.top b).toNat ≤ 256) ∧ ∃ i, (encodeIndex tb i).r < 0)

/-- R6: every command in every state is performed whole in one step with exactly one response. -/
def Obligations.EveryCommandAnsweredOnce : Prop :=
  ∀ (s : State) (w : Word) (rest : List HostAction), s.actions = .command w :: rest →
    ∃ t x, step s = .next t ∧ t.actions = rest ∧ t.responses = s.responses ++ [x]

/-! ## Invariants -/

/-- R29: every step keeps the invariants. -/
def Obligations.StepKeepsTheInvariants : Prop :=
  ∀ s t : State, MachineInv s → step s = .next t → MachineInv t

/-- R29: they hold after reset. -/
def Obligations.ResetMeetsTheInvariants : Prop :=
  MachineInv State.reset

/-! ## Whole passes and runs -/

/-- R92: taking the in-domain ENC commands out of a run changes neither the registers at its end nor the responses to
the commands that stay. An ENC of 133 or more faults and stays. -/
def Obligations.EncCommandsDoNotDisturb : Prop :=
  ∀ (s : State) (ws : List Word),
    ∃ t t', runWords ws s = .next t ∧ runWords (ws.filter (fun w => !inDomainEnc w)) s = .next t' ∧
      SameRegisters t t' ∧
      ((ws.zip (t.responses.drop s.responses.length)).filter (fun p => !inDomainEnc p.1)).map Prod.snd =
        t'.responses.drop s.responses.length

/-- R95: the result of a pass in closed form, from every state that is not FAULTED and for every reference. -/
def Obligations.PassResultIsClosedForm : Prop :=
  ∀ (ref : Index → BitVec 24) (s : State), s.phase ≠ .faulted →
    ∃ t, runInstrs (analyze (List.ofFn ref)) s = .next t ∧
      t.phase = .done ∧ t.idx = 133 ∧ t.cause = s.cause ∧ t.actions = [] ∧
      t.sumabs.toNat = ((passErrors ref).map Int.natAbs).sum ∧
      t.nz.toNat = (passErrors ref).countP (· ≠ 0) ∧
      (t.maxe.toInt ∈ passErrors ref ∧ ∀ e ∈ passErrors ref, e ≤ t.maxe.toInt) ∧
      (t.mine.toInt ∈ passErrors ref ∧ ∀ e ∈ passErrors ref, t.mine.toInt ≤ e) ∧
      t.responses = s.responses ++ 0#32 :: (passResponses ref ++ [0#32])

/-- R93: a pass over the block's own colours reports no error anywhere. -/
def Obligations.SelfComparisonIsExact : Prop :=
  ∀ s : State, s.phase ≠ .faulted →
    runInstrs (analyze ownPalette) s = .next { s with
      phase := .done, idx := 133, sumabs := 0, maxe := 0, mine := 0, nz := 0, actions := [],
      responses := s.responses ++ List.replicate 135 0#32 }

/-- R62, R103: a reference sequence of any other length ends in InputShapeError. -/
def Obligations.WrongLengthIsRejected : Prop :=
  ∀ (ref : List (BitVec 24)) (s : State), s.phase ≠ .faulted → ref.length ≠ 133 →
    ∃ t, runInstrs (analyze ref) s = .next t ∧ t.phase = .faulted ∧ t.cause = some .inputShapeError ∧
      ∃ before, t.responses = before ++ [0x20000000#32]

/-- R88: in DONE the scalars lie in their ranges, and the pass is 100 per cent correct exactly when NZ = 0, exactly
when SUMABS = 0. -/
def Obligations.SummaryScalarsMeanWhatTheySay : Prop :=
  ∀ s : State, MachineInv s → s.phase = .done →
    (0 ≤ mae s ∧ mae s ≤ 255) ∧ (0 ≤ percentCorrect s ∧ percentCorrect s ≤ 100) ∧
    percentCorrect s = 100 * (399 - s.nz.toNat) / 399 ∧
    (percentCorrect s = 100 ↔ s.nz = 0) ∧ (s.nz = 0 ↔ s.sumabs = 0) ∧
    (-255 ≤ maxError s ∧ maxError s ≤ 255) ∧ (-255 ≤ minError s ∧ minError s ≤ 255)

/-- R126, for runs without RESET (log entry 10): no response reports a fault exactly when the run does not end in
FAULTED. -/
def Obligations.GoodRunEndsUnfaulted : Prop :=
  ∀ (s : State) (ws : List Word), s.phase ≠ .faulted →
    ∃ t, runWords ws s = .next t ∧
      (NoFaultReported (t.responses.drop s.responses.length) ↔ t.phase ≠ .faulted)
end

