-- ==== Sys2Proof/Laws/Decode.lean ====
section
/-!
SUPPORT. The fields of a format C word (30_encoding.md R46), read and written.
-/

namespace Sys2Proof

theorem formatC_toNat (op : BitVec 4) (arg : BitVec 24) :
    (formatC op arg).toNat = op.toNat * 2 ^ 28 + arg.toNat := by
  have := op.isLt
  have := arg.isLt
  change ((op ++ 0#4) ++ arg).toNat = _
  rw [BitVec.toNat_append, BitVec.toNat_append, ← Nat.shiftLeft_add_eq_or_of_lt arg.isLt]
  simp [Nat.shiftLeft_eq]
  omega

@[simp] theorem cmdOp_formatC (op : BitVec 4) (arg : BitVec 24) : cmdOp (formatC op arg) = op := by
  have := op.isLt
  have := arg.isLt
  apply BitVec.eq_of_toNat_eq
  rw [cmdOp, BitVec.extractLsb'_toNat, formatC_toNat, Nat.shiftRight_eq_div_pow]
  omega

@[simp] theorem cmdRsv_formatC (op : BitVec 4) (arg : BitVec 24) : cmdRsv (formatC op arg) = 0 := by
  have := op.isLt
  have := arg.isLt
  apply BitVec.eq_of_toNat_eq
  rw [cmdRsv, BitVec.extractLsb'_toNat, formatC_toNat, Nat.shiftRight_eq_div_pow]
  simp
  omega

@[simp] theorem cmdArg_formatC (op : BitVec 4) (arg : BitVec 24) : cmdArg (formatC op arg) = arg := by
  have := op.isLt
  have := arg.isLt
  apply BitVec.eq_of_toNat_eq
  rw [cmdArg, BitVec.extractLsb'_toNat, formatC_toNat, Nat.shiftRight_eq_div_pow]
  omega

/-- A word whose RSV is zero is its OP and its ARG put together. -/
theorem formatC_fields {w : Word} (h : cmdRsv w = 0) : formatC (cmdOp w) (cmdArg w) = w := by
  have hw := w.isLt
  have hr : (cmdRsv w).toNat = 0 := congrArg BitVec.toNat h
  apply BitVec.eq_of_toNat_eq
  rw [formatC_toNat]
  simp only [cmdRsv, cmdOp, cmdArg, BitVec.extractLsb'_toNat, Nat.shiftRight_eq_div_pow] at hr ⊢
  omega

end Sys2Proof
end

