-- ==== Sys2Proof/Laws/Encoder.lean ====
section
/-!
SUPPORT. The encoder's sub-units: which path OUTMUX takes (40_encoder.md R71) and how a channel value sits between the
bounds of its interval (R70).
-/

namespace Sys2Proof.Machine

theorem outmux_gray (t : Tables) (band : Band) {slot : Slot} (h : slot.val = 0) :
    outmux t band slot = ⟨grayOf t band, grayOf t band, grayOf t band⟩ := dif_pos h

theorem outmux_hue (t : Tables) (band : Band) {slot : Slot} (h : ¬ slot.val = 0) :
    outmux t band slot = hueColour t band ⟨slot.val - 1, by omega⟩ := dif_neg h

theorem intervalOf_topVal (t : Tables) (band : Band) :
    (intervalOf t band).topVal = (intervalOf t band).baseVal + (intervalOf t band).delta := by
  simp only [intervalOf]
  omega

/-- A selector has two bits, so a channel value never passes the top of a non-empty interval. -/
theorem lerp_le_top (v : Interval) (c : BitVec 2) (h : 0 ≤ v.delta) : lerp v c ≤ v.baseVal + v.delta := by
  have hc : (c.toNat : Int) ≤ 3 := by have := c.isLt; omega
  have hm : v.delta * c.toNat ≤ v.delta * 3 := Int.mul_le_mul_of_nonneg_left hc h
  simp only [lerp]
  omega

theorem base_le_lerp (v : Interval) (c : BitVec 2) (h : 0 ≤ v.delta) : v.baseVal ≤ lerp v c := by
  have hm : 0 ≤ v.delta * c.toNat := Int.mul_nonneg h (Int.natCast_nonneg _)
  simp only [lerp]
  omega

end Sys2Proof.Machine
end

