-- ==== Sys2Proof/Laws/State.lean ====
section
/-!
SUPPORT. One lemma per field per update of the state, true by definition: later proofs unfold no record update.
-/

namespace Sys2Proof.Machine

/-! ## `respond` writes no register -/

@[simp] theorem respond_phase (st : BitVec 4) (pay : BitVec 28) (s : State) : (respond st pay s).phase = s.phase := rfl
@[simp] theorem respond_cause (st : BitVec 4) (pay : BitVec 28) (s : State) : (respond st pay s).cause = s.cause := rfl
@[simp] theorem respond_idx (st : BitVec 4) (pay : BitVec 28) (s : State) : (respond st pay s).idx = s.idx := rfl
@[simp] theorem respond_sumabs (st : BitVec 4) (pay : BitVec 28) (s : State) : (respond st pay s).sumabs = s.sumabs := rfl
@[simp] theorem respond_maxe (st : BitVec 4) (pay : BitVec 28) (s : State) : (respond st pay s).maxe = s.maxe := rfl
@[simp] theorem respond_mine (st : BitVec 4) (pay : BitVec 28) (s : State) : (respond st pay s).mine = s.mine := rfl
@[simp] theorem respond_nz (st : BitVec 4) (pay : BitVec 28) (s : State) : (respond st pay s).nz = s.nz := rfl
@[simp] theorem respond_actions (st : BitVec 4) (pay : BitVec 28) (s : State) : (respond st pay s).actions = s.actions := rfl
@[simp] theorem respond_responses (st : BitVec 4) (pay : BitVec 28) (s : State) : (respond st pay s).responses = s.responses ++ [responseWord st pay] := rfl

/-! ## `raiseFault` writes PHASE and CAUSE only -/

@[simp] theorem raiseFault_phase (c : FaultCause) (s : State) : (raiseFault c s).phase = .faulted := rfl
@[simp] theorem raiseFault_cause (c : FaultCause) (s : State) : (raiseFault c s).cause = some c := rfl
@[simp] theorem raiseFault_idx (c : FaultCause) (s : State) : (raiseFault c s).idx = s.idx := rfl
@[simp] theorem raiseFault_sumabs (c : FaultCause) (s : State) : (raiseFault c s).sumabs = s.sumabs := rfl
@[simp] theorem raiseFault_maxe (c : FaultCause) (s : State) : (raiseFault c s).maxe = s.maxe := rfl
@[simp] theorem raiseFault_mine (c : FaultCause) (s : State) : (raiseFault c s).mine = s.mine := rfl
@[simp] theorem raiseFault_nz (c : FaultCause) (s : State) : (raiseFault c s).nz = s.nz := rfl
@[simp] theorem raiseFault_actions (c : FaultCause) (s : State) : (raiseFault c s).actions = s.actions := rfl
@[simp] theorem raiseFault_responses (c : FaultCause) (s : State) : (raiseFault c s).responses = s.responses ++ [responseWord c.code 0#28] := rfl

/-! ## `refuse` writes no register -/

@[simp] theorem refuse_phase (s : State) : (refuse s).phase = s.phase := rfl
@[simp] theorem refuse_cause (s : State) : (refuse s).cause = s.cause := rfl
@[simp] theorem refuse_idx (s : State) : (refuse s).idx = s.idx := rfl
@[simp] theorem refuse_sumabs (s : State) : (refuse s).sumabs = s.sumabs := rfl
@[simp] theorem refuse_maxe (s : State) : (refuse s).maxe = s.maxe := rfl
@[simp] theorem refuse_mine (s : State) : (refuse s).mine = s.mine := rfl
@[simp] theorem refuse_nz (s : State) : (refuse s).nz = s.nz := rfl
@[simp] theorem refuse_actions (s : State) : (refuse s).actions = s.actions := rfl
@[simp] theorem refuse_responses (s : State) : (refuse s).responses = s.responses ++ [responseWord (statusOfCause s.cause) 0#28] := rfl

/-! ## `withActions` writes no register -/

@[simp] theorem withActions_phase (as : List HostAction) (s : State) : (withActions as s).phase = s.phase := rfl
@[simp] theorem withActions_cause (as : List HostAction) (s : State) : (withActions as s).cause = s.cause := rfl
@[simp] theorem withActions_idx (as : List HostAction) (s : State) : (withActions as s).idx = s.idx := rfl
@[simp] theorem withActions_sumabs (as : List HostAction) (s : State) : (withActions as s).sumabs = s.sumabs := rfl
@[simp] theorem withActions_maxe (as : List HostAction) (s : State) : (withActions as s).maxe = s.maxe := rfl
@[simp] theorem withActions_mine (as : List HostAction) (s : State) : (withActions as s).mine = s.mine := rfl
@[simp] theorem withActions_nz (as : List HostAction) (s : State) : (withActions as s).nz = s.nz := rfl
@[simp] theorem withActions_actions (as : List HostAction) (s : State) : (withActions as s).actions = as := rfl
@[simp] theorem withActions_responses (as : List HostAction) (s : State) : (withActions as s).responses = s.responses := rfl

/-! ## `clearPass` writes the five registers of a pass -/

@[simp] theorem clearPass_phase (s : State) : (clearPass s).phase = s.phase := rfl
@[simp] theorem clearPass_cause (s : State) : (clearPass s).cause = s.cause := rfl
@[simp] theorem clearPass_idx (s : State) : (clearPass s).idx = 0#8 := rfl
@[simp] theorem clearPass_sumabs (s : State) : (clearPass s).sumabs = 0#17 := rfl
@[simp] theorem clearPass_maxe (s : State) : (clearPass s).maxe = BitVec.ofInt 9 (-255) := rfl
@[simp] theorem clearPass_mine (s : State) : (clearPass s).mine = BitVec.ofInt 9 255 := rfl
@[simp] theorem clearPass_nz (s : State) : (clearPass s).nz = 0#9 := rfl
@[simp] theorem clearPass_actions (s : State) : (clearPass s).actions = s.actions := rfl
@[simp] theorem clearPass_responses (s : State) : (clearPass s).responses = s.responses := rfl

/-! ## `accumulate` writes the four accumulators -/

@[simp] theorem accumulate_phase (e : Int) (s : State) : (accumulate e s).phase = s.phase := rfl
@[simp] theorem accumulate_cause (e : Int) (s : State) : (accumulate e s).cause = s.cause := rfl
@[simp] theorem accumulate_idx (e : Int) (s : State) : (accumulate e s).idx = s.idx := rfl
@[simp] theorem accumulate_sumabs (e : Int) (s : State) : (accumulate e s).sumabs = s.sumabs + BitVec.ofNat 17 e.natAbs := rfl
@[simp] theorem accumulate_maxe (e : Int) (s : State) : (accumulate e s).maxe = BitVec.ofInt 9 (max s.maxe.toInt e) := rfl
@[simp] theorem accumulate_mine (e : Int) (s : State) : (accumulate e s).mine = BitVec.ofInt 9 (min s.mine.toInt e) := rfl
@[simp] theorem accumulate_nz (e : Int) (s : State) : (accumulate e s).nz = if e ≠ 0 then s.nz + 1 else s.nz := rfl
@[simp] theorem accumulate_actions (e : Int) (s : State) : (accumulate e s).actions = s.actions := rfl
@[simp] theorem accumulate_responses (e : Int) (s : State) : (accumulate e s).responses = s.responses := rfl

/-! ## `accumulateEntry` keeps what `accumulate` keeps -/

@[simp] theorem accumulateEntry_phase (e : Rgb) (s : State) : (accumulateEntry e s).phase = s.phase := rfl
@[simp] theorem accumulateEntry_cause (e : Rgb) (s : State) : (accumulateEntry e s).cause = s.cause := rfl
@[simp] theorem accumulateEntry_idx (e : Rgb) (s : State) : (accumulateEntry e s).idx = s.idx := rfl
@[simp] theorem accumulateEntry_actions (e : Rgb) (s : State) : (accumulateEntry e s).actions = s.actions := rfl
@[simp] theorem accumulateEntry_responses (e : Rgb) (s : State) : (accumulateEntry e s).responses = s.responses := rfl

/-! ## `resetEvent` writes every register and keeps the host's two lists -/

@[simp] theorem resetEvent_phase (s : State) : (resetEvent s).phase = State.reset.phase := rfl
@[simp] theorem resetEvent_cause (s : State) : (resetEvent s).cause = State.reset.cause := rfl
@[simp] theorem resetEvent_idx (s : State) : (resetEvent s).idx = State.reset.idx := rfl
@[simp] theorem resetEvent_sumabs (s : State) : (resetEvent s).sumabs = State.reset.sumabs := rfl
@[simp] theorem resetEvent_maxe (s : State) : (resetEvent s).maxe = State.reset.maxe := rfl
@[simp] theorem resetEvent_mine (s : State) : (resetEvent s).mine = State.reset.mine := rfl
@[simp] theorem resetEvent_nz (s : State) : (resetEvent s).nz = State.reset.nz := rfl
@[simp] theorem resetEvent_actions (s : State) : (resetEvent s).actions = s.actions := rfl
@[simp] theorem resetEvent_responses (s : State) : (resetEvent s).responses = s.responses := rfl

/-! ## `clearPass` and `accumulate` before a response -/

@[simp] theorem aclrBody_phase (s : State) : (aclrBody s).phase = .run := rfl
@[simp] theorem aclrBody_cause (s : State) : (aclrBody s).cause = s.cause := rfl
@[simp] theorem aclrBody_actions (s : State) : (aclrBody s).actions = s.actions := rfl
@[simp] theorem rdsBody_actions (sel : Sel) (s : State) : (rdsBody sel s).actions = s.actions := rfl

end Sys2Proof.Machine
end

