-- ==== Sys2Proof/Laws/Ops.lean ====
section
/-!
SUPPORT. What each shared operation can do, said once: the order of checks (60_exceptions.md R106), the bodies with
their operand checks, and the taking of a host action.
-/

namespace Sys2Proof.Machine

theorem perform_of_faulted {legal : List Phase} {s : State} {body : State → State} (h : s.phase = .faulted) :
    perform legal s body = .next (refuse s) := if_pos h

theorem perform_of_legal {legal : List Phase} {s : State} {body : State → State} (h : s.phase ≠ .faulted)
    (hl : s.phase ∈ legal) : perform legal s body = .next (body s) := (if_neg h).trans (if_pos hl)

theorem perform_of_illegal {legal : List Phase} {s : State} {body : State → State} (h : s.phase ≠ .faulted)
    (hl : s.phase ∉ legal) : perform legal s body = .next (raiseFault .illegalOperation s) :=
  (if_neg h).trans (if_neg hl)

/-- Everything `perform` can do: it refuses, or runs the body, or raises IllegalOperation. -/
theorem perform_cases (legal : List Phase) (s : State) (body : State → State) :
    (s.phase = .faulted ∧ perform legal s body = .next (refuse s)) ∨
    (s.phase ≠ .faulted ∧ s.phase ∈ legal ∧ perform legal s body = .next (body s)) ∨
    (s.phase ≠ .faulted ∧ s.phase ∉ legal ∧ perform legal s body = .next (raiseFault .illegalOperation s)) := by
  by_cases h : s.phase = .faulted
  · exact .inl ⟨h, perform_of_faulted h⟩
  · by_cases hl : s.phase ∈ legal
    · exact .inr (.inl ⟨h, hl, perform_of_legal h hl⟩)
    · exact .inr (.inr ⟨h, hl, perform_of_illegal h hl⟩)

theorem encBody_of_lt {idxf : BitVec 8} (h : idxf.toNat < 133) (s : State) :
    encBody idxf s = respond 0#4 (encPayload (encodeIndex tables ⟨idxf.toNat, h⟩)) s := dif_pos h

theorem encBody_of_ge {idxf : BitVec 8} (h : ¬ idxf.toNat < 133) (s : State) :
    encBody idxf s = raiseFault .domainViolation s := dif_neg h

theorem acmpBody_of_lt {s : State} (h : s.idx.toNat < 133) (ref : Rgb) :
    acmpBody ref s = respond 0#4 (acmpPayload (entryErrors ⟨s.idx.toNat, h⟩ ref))
      { accumulateEntry (entryErrors ⟨s.idx.toNat, h⟩ ref) s with idx := s.idx + 1 } := dif_pos h

theorem acmpBody_of_ge {s : State} (h : ¬ s.idx.toNat < 133) (ref : Rgb) :
    acmpBody ref s = raiseFault .inputShapeError s := dif_neg h

theorem afinBody_of_full {s : State} (h : s.idx.toNat = 133) :
    afinBody s = respond 0#4 0#28 { s with phase := .done } := if_pos h

theorem afinBody_of_short {s : State} (h : s.idx.toNat ≠ 133) :
    afinBody s = raiseFault .inputShapeError s := if_neg h

theorem takeAction_nil {s : State} (h : s.actions = []) : takeAction s = none := by
  simp only [takeAction, h]

theorem takeAction_cons {s : State} {a : HostAction} {rest : List HostAction} (h : s.actions = a :: rest) :
    takeAction s = some (a, withActions rest s) := by
  simp only [takeAction, h]

/-- Everything a step can do: wait, run the RESET event, or run one command word. -/
theorem runAction_cases (a : HostAction) (s : State) :
    (a = .reset ∧ runAction a s = .next (resetEvent s)) ∨
    (∃ w, a = .command w ∧ runAction a s = runWord w s) := by
  cases a with
  | reset => exact .inl ⟨rfl, rfl⟩
  | command w => exact .inr ⟨w, rfl, rfl⟩

end Sys2Proof.Machine
end

