-- ==== Sys2Proof/Laws/PerInstr.lean ====
section
/-!
SUPPORT. The per-instruction family LegalWord: the word of a command passes every check of 30_encoding.md R59.
-/

namespace Sys2Proof.Laws.LegalWord

/-- The word of `i` is a legal command word (R59). -/
def Statement (i : Instr) : Prop := WellFormed.wordIllegal (encode i) = false

theorem enc (idxf : BitVec 8) : Statement (.enc idxf) := by
  revert idxf
  unfold Statement
  decide

theorem aclr : Statement .aclr := by
  unfold Statement
  decide

theorem acmp (rr rg rb : BitVec 8) : Statement (.acmp rr rg rb) := by
  have hop : (encode (.acmp rr rg rb)).extractLsb' 28 4 = 3#4 := cmdOp_formatC 3 (rr ++ rg ++ rb)
  have hrsv : (encode (.acmp rr rg rb)).extractLsb' 24 4 = 0#4 := cmdRsv_formatC 3 (rr ++ rg ++ rb)
  simp [Statement, WellFormed.wordIllegal, WellFormed.opUndefined, WellFormed.rsvNotZero, WellFormed.encHighArg,
    WellFormed.plainArg, WellFormed.rdsHighArg, hop, hrsv, BitVec.ule]

theorem afin : Statement .afin := by
  unfold Statement
  decide

theorem rds (sel : Sel) : Statement (.rds sel) := by
  unfold Statement
  cases sel <;> decide

end Sys2Proof.Laws.LegalWord
end

