-- ==== Sys2Proof/Laws/Run.lean ====
section
/-!
SUPPORT. Runs of given words, one step at a time.
-/

namespace Sys2Proof.Safety

open Sys2Proof.Machine

theorem runSteps_succ {n : Nat} {s t : State} (h : step s = .next t) : runSteps (n + 1) s = runSteps n t := by
  simp only [runSteps, h]

/-- The host's list is the words still to come, so a run of words may be read off any state that already holds it. -/
theorem runWords_of_actions {ws : List Word} {s : State} (h : s.actions = ws.map .command) :
    runWords ws s = runSteps ws.length s := by
  have hs : withActions (ws.map .command) s = s := by rw [← h]; rfl
  rw [runWords, hs]

@[simp] theorem runWords_nil (s : State) : runWords [] s = .next (withActions [] s) := rfl

end Sys2Proof.Safety
end

