-- ==== Sys2Proof/Laws/Step.lean ====
section
/-!
SUPPORT. The inversion of a step: everything it can do (00_scope.md R6, 70_reset_and_hazards.md R119).
-/

namespace Sys2Proof.Machine

/-- The phases in which a command is performed (41_analyzer.md R81). -/
def legalPhases : Instr → List Phase
  | .enc _ => [.idle, .run, .done]
  | .aclr => [.idle, .run, .done]
  | .acmp _ _ _ => [.run]
  | .afin => [.run]
  | .rds _ => [.done]

/-- What a command does once it is legal. -/
def bodyOf : Instr → State → State
  | .enc idxf => encBody idxf
  | .aclr => aclrBody
  | .acmp rr rg rb => acmpBody (rgbOfFields rr rg rb)
  | .afin => afinBody
  | .rds sel => rdsBody sel

/-- Every command goes through the one order of checks of R106. -/
theorem exec_eq_perform (i : Instr) (s : State) : exec i s = perform (legalPhases i) s (bodyOf i) := by
  cases i <;> rfl

/-- Everything a command word can do: refused, IllegalOperation, or a legal command's own effect. -/
theorem runWord_cases (w : Word) (s : State) :
    (s.phase = .faulted ∧ runWord w s = .next (refuse s)) ∨
    (s.phase ≠ .faulted ∧ (∃ e, decode w = .error e) ∧ runWord w s = .next (raiseFault .illegalOperation s)) ∨
    (∃ i, s.phase ≠ .faulted ∧ decode w = .ok i ∧ s.phase ∉ legalPhases i ∧
      runWord w s = .next (raiseFault .illegalOperation s)) ∨
    (∃ i, s.phase ≠ .faulted ∧ decode w = .ok i ∧ s.phase ∈ legalPhases i ∧ runWord w s = .next (bodyOf i s)) := by
  cases hd : decode w with
  | error e =>
    have hr : runWord w s = perform [] s id := by rw [runWord, hd, illegalWord]
    by_cases hp : s.phase = .faulted
    · exact .inl ⟨hp, hr.trans (perform_of_faulted hp)⟩
    · exact .inr (.inl ⟨hp, ⟨e, rfl⟩, hr.trans (perform_of_illegal hp (List.not_mem_nil))⟩)
  | ok i =>
    have hr : runWord w s = perform (legalPhases i) s (bodyOf i) := by rw [runWord, hd, ← exec_eq_perform]
    rcases perform_cases (legalPhases i) s (bodyOf i) with ⟨hp, h⟩ | ⟨hp, hl, h⟩ | ⟨hp, hl, h⟩
    · exact .inl ⟨hp, hr.trans h⟩
    · exact .inr (.inr (.inr ⟨i, hp, rfl, hl, hr.trans h⟩))
    · exact .inr (.inr (.inl ⟨i, hp, rfl, hl, hr.trans h⟩))

/-- If a step answers a next state, the block waited, was reset, or ran one command word. -/
theorem step_cases {s t : State} (h : step s = .next t) :
    (s.actions = [] ∧ t = s) ∨
    (∃ rest, s.actions = .reset :: rest ∧ t = resetEvent (withActions rest s)) ∨
    (∃ w rest, s.actions = .command w :: rest ∧ runWord w (withActions rest s) = .next t) := by
  cases hs : s.actions with
  | nil =>
    rw [step, takeAction_nil hs] at h
    exact .inl ⟨rfl, (Host.Outcome.next.inj h).symm⟩
  | cons a rest =>
    rw [step, takeAction_cons hs] at h
    cases a with
    | reset => exact .inr (.inl ⟨rest, rfl, (Host.Outcome.next.inj h).symm⟩)
    | command w => exact .inr (.inr ⟨w, rest, rfl, h⟩)

end Sys2Proof.Machine
end

