-- ==== Sys2Proof/Tests/Slice0.lean ====
section
/-!
SUPPORT. The model's own tests. Expected results are those of spec/95_test_vectors.md (the vector's id stands at each
test) or of the encodings of 30_encoding.md, never the model's. After them, for every statement with hypotheses, a
witness that meets them all.
-/

namespace Sys2Proof.Tests

open Sys2Proof Sys2Proof.Machine Sys2Proof.Safety Sys2Proof.WellFormed

/-- A state as 95_test_vectors.md writes one, (PHASE, CAUSE, IDX, SUMABS, MAXE, MINE, NZ), before the given words. -/
def st (phase : Phase) (cause : Option FaultCause) (idx sumabs : Nat) (maxe mine : Int) (nz : Nat)
    (words : List Word := []) : State :=
  { phase := phase, cause := cause, idx := BitVec.ofNat 8 idx, sumabs := BitVec.ofNat 17 sumabs,
    maxe := BitVec.ofInt 9 maxe, mine := BitVec.ofInt 9 mine, nz := BitVec.ofNat 9 nz,
    actions := words.map .command, responses := [] }

/-- The state a step answers, if it answers one. -/
def nextOf (o : Host.Outcome State Fault Refusal) : Option State :=
  match o with
  | .next s => some s
  | .fault _ => none
  | .refused _ => none

/-- The one response and the state after one step, as a line of 95_test_vectors.md gives them. -/
def answers (before : State) (response : Word) (after : State) : Prop :=
  nextOf (step before) = some { after with responses := [response] }

/-! ## Words -/

theorem test_decode_enc : decode 0b00010000000000000000000010000101#32 = .ok (.enc 133) := by decide
theorem test_decode_aclr : decode 0b00100000000000000000000000000000#32 = .ok .aclr := by decide
theorem test_decode_acmp : decode 0b00110000000000010000001000000011#32 = .ok (.acmp 1 2 3) := by decide
theorem test_decode_afin : decode 0b01000000000000000000000000000000#32 = .ok .afin := by decide
theorem test_decode_rds_nz : decode 0b01010000000000000000000000000011#32 = .ok (.rds .nz) := by decide
theorem test_decode_rds_maxe : decode 0b01010000000000000000000000000001#32 = .ok (.rds .maxe) := by decide
/-- The all-zero and the all-ones word are illegal (R47, V50, V51). -/
theorem test_decode_zero : decode 0#32 = .error (.undefinedOpcode 0) := by decide
theorem test_decode_ones : decode 0xFFFFFFFF#32 = .error (.reservedNotZero 0xF) := by decide
theorem test_decodeTableWord : decodeTableWord 32 0x30FFD4BF = some (.acmp 0xFF 0xD4 0xBF) := by decide
theorem test_decodeTableWord_short : decodeTableWord 24 0x20000000 = none := by decide

/-! ## One ill-formed word for each check of R59, which the check and the decoder refuse -/

theorem smoke_opUndefined : opUndefined 0x60000000#32 = true ∧ wordIllegal 0x60000000#32 = true := by decide
theorem smoke_rsvNotZero : rsvNotZero 0x31000000#32 = true ∧ wordIllegal 0x31000000#32 = true := by decide
theorem smoke_encHighArg : encHighArg 0x10000100#32 = true ∧ wordIllegal 0x10000100#32 = true := by decide
theorem smoke_plainArg : plainArg 0x20000001#32 = true ∧ plainArg 0x40800000#32 = true := by decide
theorem smoke_rdsHighArg : rdsHighArg 0x50000004#32 = true ∧ wordIllegal 0x50000004#32 = true := by decide
theorem smoke_legal : wordIllegal 0x100000FF#32 = false ∧ wordIllegal 0x50000003#32 = false := by decide
/-- One ill-formed assembly line for each range of R61. -/
theorem smoke_asm : assemble (.enc 256) = none ∧ assemble (.acmp 0x1000000) = none ∧ assemble (.word 0x100000000) = none := by
  decide

/-! ## The encoder, all 133 rows of 95_test_vectors.md section 2 -/

theorem test_encode_table : ownPalette =
  [0xFFFFFF#24, 0xFFD4BF#24, 0xFFE9BF#24, 0xFFFFBF#24, 0xE9FFBF#24, 0xD4FFBF#24, 0xBFFFBF#24,
   0xBFFFD4#24, 0xBFFFE9#24, 0xBFFFFF#24, 0xBFE9FF#24, 0xBFD4FF#24, 0xBFBFFF#24, 0xD4BFFF#24,
   0xE9BFFF#24, 0xFFBFFF#24, 0xFFBFE9#24, 0xFFBFD4#24, 0xFFBFBF#24] ++
  [0xDBDBDB#24, 0xBF9F8F#24, 0xBFAF8F#24, 0xBFBF8F#24, 0xAFBF8F#24, 0x9FBF8F#24, 0x8FBF8F#24,
   0x8FBF9F#24, 0x8FBFAF#24, 0x8FBFBF#24, 0x8FAFBF#24, 0x8F9FBF#24, 0x8F8FBF#24, 0x9F8FBF#24,
   0xAF8FBF#24, 0xBF8FBF#24, 0xBF8FAF#24, 0xBF8F9F#24, 0xBF8F8F#24] ++
  [0xB6B6B6#24, 0xBF7F5F#24, 0xBF9F5F#24, 0xBFBF5F#24, 0x9FBF5F#24, 0x7FBF5F#24, 0x5FBF5F#24,
   0x5FBF7F#24, 0x5FBF9F#24, 0x5FBFBF#24, 0x5F9FBF#24, 0x5F7FBF#24, 0x5F5FBF#24, 0x7F5FBF#24,
   0x9F5FBF#24, 0xBF5FBF#24, 0xBF5F9F#24, 0xBF5F7F#24, 0xBF5F5F#24] ++
  [0x929292#24, 0xBF693F#24, 0xBF943F#24, 0xBFBF3F#24, 0x94BF3F#24, 0x69BF3F#24, 0x3FBF3F#24,
   0x3FBF69#24, 0x3FBF94#24, 0x3FBFBF#24, 0x3F94BF#24, 0x3F69BF#24, 0x3F3FBF#24, 0x693FBF#24,
   0x943FBF#24, 0xBF3FBF#24, 0xBF3F94#24, 0xBF3F69#24, 0xBF3F3F#24] ++
  [0x6D6D6D#24, 0xFF5500#24, 0xFFAA00#24, 0xFFFF00#24, 0xAAFF00#24, 0x55FF00#24, 0x00FF00#24,
   0x00FF55#24, 0x00FFAA#24, 0x00FFFF#24, 0x00AAFF#24, 0x0055FF#24, 0x0000FF#24, 0x5500FF#24,
   0xAA00FF#24, 0xFF00FF#24, 0xFF00AA#24, 0xFF0055#24, 0xFF0000#24] ++
  [0x494949#24, 0xBF3F00#24, 0xBF7F00#24, 0xBFBF00#24, 0x7FBF00#24, 0x3FBF00#24, 0x00BF00#24,
   0x00BF3F#24, 0x00BF7F#24, 0x00BFBF#24, 0x007FBF#24, 0x003FBF#24, 0x0000BF#24, 0x3F00BF#24,
   0x7F00BF#24, 0xBF00BF#24, 0xBF007F#24, 0xBF003F#24, 0xBF0000#24] ++
  [0x242424#24, 0x7F2A00#24, 0x7F5400#24, 0x7F7F00#24, 0x547F00#24, 0x2A7F00#24, 0x007F00#24,
   0x007F2A#24, 0x007F54#24, 0x007F7F#24, 0x00547F#24, 0x002A7F#24, 0x00007F#24, 0x2A007F#24,
   0x54007F#24, 0x7F007F#24, 0x7F0054#24, 0x7F002A#24, 0x7F0000#24] := by
  decide

set_option maxRecDepth 20000 in
/-- 95_test_vectors.md section 3.5, SUMABS and NZ of a pass with one colour throughout. -/
theorem test_pass_black : ((passErrors fun _ => 0x000000#24).map Int.natAbs).sum = 54147 ∧
    (passErrors fun _ => 0x000000#24).countP (· ≠ 0) = 336 := by decide
set_option maxRecDepth 20000 in
theorem test_pass_white : ((passErrors fun _ => 0xFFFFFF#24).map Int.natAbs).sum = 47598 ∧
    (passErrors fun _ => 0xFFFFFF#24).countP (· ≠ 0) = 354 := by decide

/-! ## One step of each command -/

/-- V12: the first index outside the domain; the fault carries no colour. -/
theorem test_enc_133 : answers (st .idle none 0 0 (-255) 255 0 [0x10000085]) 0x10000000
    (st .faulted (some .domainViolation) 0 0 (-255) 255 0) := by unfold answers; decide
/-- V16: ENC inside a pass. -/
theorem test_enc_in_pass : answers (st .run none 5 12 3 (-4) 6 [0x10000001]) 0x00FFD4BF
    (st .run none 5 12 3 (-4) 6) := by unfold answers; decide
/-- V36: ACLR inside a pass. -/
theorem test_aclr_in_pass : answers (st .run none 40 900 30 (-12) 77 [0x20000000]) 0x00000000
    (st .run none 0 0 (-255) 255 0) := by unfold answers; decide
/-- V35: ACLR after a pass. -/
theorem test_aclr_in_done : answers (st .done none 133 16 7 (-5) 4 [0x20000000]) 0x00000000
    (st .run none 0 0 (-255) 255 0) := by unfold answers; decide
/-- V23: both extreme errors in one entry. -/
theorem test_acmp_extremes : answers (st .run none 82 0 0 0 0 [0x30FF00FF]) 0x0405FF01
    (st .run none 83 765 255 (-255) 3) := by unfold answers; decide
set_option maxRecDepth 4000 in
/-- V24: a zero error is not counted. -/
theorem test_acmp_zero_channel : answers (st .run none 1 0 0 0 0 [0x30FFFFFF]) 0x0003ABC0
    (st .run none 2 107 0 (-64) 2) := by unfold answers; decide
/-- V27: a full pass closes. -/
theorem test_afin_full : answers (st .run none 133 16 7 (-5) 4 [0x40000000]) 0x00000000
    (st .done none 133 16 7 (-5) 4) := by unfold answers; decide
/-- V30: one entry short. -/
theorem test_afin_short : answers (st .run none 132 0 0 0 0 [0x40000000]) 0x20000000
    (st .faulted (some .inputShapeError) 132 0 0 0 0) := by unfold answers; decide
/-- V42: the sign extension stops at bit 27. -/
theorem test_rds_mine : answers (st .done none 133 16 7 (-5) 4 [0x50000002]) 0x0FFFFFFB
    (st .done none 133 16 7 (-5) 4) := by unfold answers; decide
/-- V45: partial aggregates are not readable. -/
theorem test_rds_in_pass : answers (st .run none 5 12 3 (-4) 6 [0x50000003]) 0x40000000
    (st .faulted (some .illegalOperation) 5 12 3 (-4) 6) := by unfold answers; decide
/-- V54: an illegal word in FAULTED keeps the cause. -/
theorem test_illegal_in_faulted : answers (st .faulted (some .inputShapeError) 2 2 0 0 0 [0x00000000]) 0x20000000
    (st .faulted (some .inputShapeError) 2 2 0 0 0) := by unfold answers; decide
/-- V55, its first step: RESET leaves FAULTED. -/
theorem test_reset_event :
    nextOf (step { st .faulted (some .inputShapeError) 2 2 0 0 0 with actions := [.reset] }) =
      some (st .idle none 0 0 (-255) 255 0) := by decide
/-- The first command after reset (P1, row 2). -/
theorem test_first_command : answers (State.reset.withFetchWord 32 0x10000001) 0x00FFD4BF State.reset := by
  unfold answers
  decide

/-! ## Witnesses: states and operands that meet all hypotheses of a statement together -/

/-- A state in RUN with 5 entries compared, as V16 has it, before ACMP #000000. -/
def runState : State := st .run none 5 12 3 (-4) 6 [0x30000000]

/-- The state V26 leaves, after a full pass. -/
def fullState : State := st .run none 133 16 7 (-5) 4 [0x40000000]

/-- A state with a completed pass, as V40 has it. -/
def doneState : State := st .done none 133 16 7 (-5) 4 [0x50000001]

/-- A FAULTED state, as V53 has it. -/
def faultedState : State := st .faulted (some .domainViolation) 0 0 (-255) 255 0 [0x10000000]

theorem runState_inv : MachineInv runState := by constructor <;> decide
theorem fullState_inv : MachineInv fullState := by constructor <;> decide
theorem doneState_inv : MachineInv doneState := by constructor <;> decide
theorem faultedState_inv : MachineInv faultedState := by constructor <;> decide

theorem witness_StepRunsDecodedCommand :
    (∃ (s : State) (w : Word) (rest : List HostAction) (i : Instr),
      s.actions = .command w :: rest ∧ decode w = .ok i) ∧ ∃ s : State, s.actions = [] :=
  ⟨⟨runState, 0x30000000, [], .acmp 0 0 0, by decide, by decide⟩, State.reset, rfl⟩

theorem witness_OpcodeMapIsTheDecoder :
    (∃ x, decode 0x10000000#32 = .ok (.enc x)) ∧ decode 0x20000000#32 = .ok .aclr ∧
    (∃ rr rg rb, decode 0x30FFFFFF#32 = .ok (.acmp rr rg rb)) ∧ decode 0x40000000#32 = .ok .afin ∧
    (∃ sel, decode 0x50000003#32 = .ok (.rds sel)) ∧ ∀ r ∈ opcodeRows, r.selects r.pattern = true :=
  ⟨⟨0, by decide⟩, by decide, ⟨255, 255, 255, by decide⟩, by decide, ⟨.nz, by decide⟩, by decide⟩

theorem witness_EncodeOfDecode : ∃ (w : Word) (i : Instr), decode w = .ok i :=
  ⟨0x50000003, .rds .nz, by decide⟩

/-- AssembledLinesDecode: both ends of the operand's range, and the first number outside it. -/
theorem witness_AssembledLinesDecode : 0 < 256 ∧ 255 < 256 ∧ 256 ≤ 256 := by decide

theorem witness_IllegalWordFaults :
    (∃ (s : State) (w : Word) (rest : List HostAction), s.actions = .command w :: rest ∧ wordIllegal w = true ∧
      s.phase ≠ .faulted) ∧
    ∃ (s : State) (w : Word) (rest : List HostAction), s.actions = .command w :: rest ∧ wordIllegal w = true ∧
      s.phase = .faulted :=
  ⟨⟨st .idle none 0 0 (-255) 255 0 [0x60000000], 0x60000000, [], by decide⟩,
    st .faulted (some .inputShapeError) 2 2 0 0 0 [0], 0, [], by decide⟩

/-- Each branch of R63: refused, illegal word, the last index of the domain, the first outside it. -/
theorem witness_EncFollowsItsRule :
    (faultedState.actions = [.command 0x10000000#32] ∧ faultedState.phase = .faulted) ∧
    ((0x10000100#32).extractLsb' 28 4 = 0x1#4 ∧ wordIllegal 0x10000100#32 = true) ∧
    ((0x10000084#32).extractLsb' 28 4 = 0x1#4 ∧ wordIllegal 0x10000084#32 = false ∧
      ((0x10000084#32).extractLsb' 0 8).toNat < 133) ∧
    ((0x10000085#32).extractLsb' 28 4 = 0x1#4 ∧ wordIllegal 0x10000085#32 = false ∧
      ¬ ((0x10000085#32).extractLsb' 0 8).toNat < 133) := by decide

theorem witness_AclrFollowsItsRule :
    (0x20000000#32).extractLsb' 28 4 = 0x2#4 ∧ wordIllegal 0x20000000#32 = false ∧
    (0x20000001#32).extractLsb' 28 4 = 0x2#4 ∧ wordIllegal 0x20000001#32 = true ∧
    (st .idle none 0 0 (-255) 255 0 [0x20000000]).actions = [.command 0x20000000#32] := by decide

/-- Each branch of R83: refused, RSV not zero, outside RUN, IDX = 132, IDX = 133. -/
theorem witness_AcmpFollowsItsRule :
    (st .run none 132 4 1 (-3) 2 [0x30780005]).actions = [.command 0x30780005#32] ∧
    (0x30780005#32).extractLsb' 28 4 = 0x3#4 ∧ wordIllegal 0x30780005#32 = false ∧
    (st .run none 132 4 1 (-3) 2).idx.toNat = 132 ∧ fullState.idx.toNat = 133 ∧ doneState.phase ≠ .run ∧
    faultedState.phase = .faulted ∧ wordIllegal 0x31000000#32 = true ∧ (0x31000000#32).extractLsb' 28 4 = 0x3#4 := by
  decide

theorem witness_AfinFollowsItsRule :
    fullState.actions = [.command 0x40000000#32] ∧ (0x40000000#32).extractLsb' 28 4 = 0x4#4 ∧
    wordIllegal 0x40000000#32 = false ∧ fullState.phase = .run ∧ fullState.idx = 133 ∧ runState.idx ≠ 133 := by decide

theorem witness_RdsFollowsItsRule :
    doneState.actions = [.command 0x50000001#32] ∧ (0x50000001#32).extractLsb' 28 4 = 0x5#4 ∧
    wordIllegal 0x50000001#32 = false ∧ doneState.phase = .done ∧
    [(0x50000000#32).extractLsb' 0 2, (0x50000001#32).extractLsb' 0 2, (0x50000002#32).extractLsb' 0 2,
      (0x50000003#32).extractLsb' 0 2] = [0, 1, 2, 3] := by decide

/-- EncCompletes, AchromaticExactlyOnGray: both ends of the domain, a gray and a hue index. -/
theorem witness_EncCompletes :
    (0 : BitVec 8).toNat < 133 ∧ (132 : BitVec 8).toNat < 133 ∧ (19 : BitVec 8).toNat % 19 = 0 ∧
    (132 : BitVec 8).toNat % 19 ≠ 0 ∧ runState.phase ≠ .faulted := by decide

/-- AclrCompletes, GrayRampStrictlyDecreases, ResponseDependsOnRegistersOnly (its second part), PassResultIsClosedForm, SelfComparisonIsExact,
GoodRunEndsUnfaulted: a state that is not FAULTED, after reset and inside a pass. -/
theorem witness_not_faulted : State.reset.phase ≠ .faulted ∧ runState.phase ≠ .faulted ∧ doneState.phase ≠ .faulted ∧
    (0 : Band) < 6 := by
  decide

/-- AcmpCompletesExactly, ErrorTripleReadsBack: the first and the last entry of a pass. -/
theorem witness_AcmpCompletesExactly :
    (∃ s : State, s.idx.toNat = 0 ∧ s.phase = .run ∧ MachineInv s) ∧
    ∃ s : State, s.idx.toNat = 132 ∧ s.phase = .run ∧ MachineInv s :=
  ⟨⟨st .run none 0 0 (-255) 255 0, by decide, by decide, by constructor <;> decide⟩,
    st .run none 132 4 1 (-3) 2, by decide, by decide, by constructor <;> decide⟩

theorem witness_AfinCompletes : fullState.phase = .run ∧ fullState.idx = 133 := by decide

theorem witness_RdsCompletesExactly : doneState.phase = .done := by decide

/-- EncodeFollowsTheFormula: slot 0, slot 1 and slot 18. -/
theorem witness_EncodeFollowsTheFormula :
    (114 : Index).val = 19 * (6 : Band).val + (0 : Slot).val ∧
    ((115 : Index).val = 19 * (6 : Band).val + (1 : Slot).val ∧ (1 : Slot).val = (0 : HueSlot).val + 1) ∧
    ((132 : Index).val = 19 * (6 : Band).val + (18 : Slot).val ∧ (18 : Slot).val = (17 : HueSlot).val + 1) := by decide

theorem witness_ChannelsStayInRange :
    ∃ t : Tables, tableCheck t = true ∧ ∀ b, 1 ≤ (t.top b).toNat ∧ (t.top b).toNat ≤ 256 :=
  ⟨⟨fun _ => 0x1B, fun _ => 255, fun _ => 256, fun _ => 0⟩, by decide, by decide⟩

theorem witness_SelectorsStepFromBaseToTop : ∀ band : Band, 0 ≤ (intervalOf tables band).delta := by decide

theorem witness_IndexDecomposesInBase19 : (132 : Index).val = 19 * (6 : Band).val + (18 : Slot).val := by decide

theorem witness_ResponseDependsOnRegistersOnly :
    ∃ (s s' : State) (w : Word) (rest rest' : List HostAction), SameRegisters s s' ∧
      s.actions = .command w :: rest ∧ s'.actions = .command w :: rest' ∧ s ≠ s' :=
  ⟨runState, { runState with actions := [.command 0x30000000, .reset], responses := [7] }, 0x30000000, [], [.reset],
    by constructor <;> rfl, by decide, by decide, by decide⟩

theorem witness_AccumulationOrderIrrelevant :
    [255, -255, 0].Perm [0, 255, -255] ∧ ∀ e ∈ ([255, -255, 0] : List Int), -255 ≤ e ∧ e ≤ 255 := by decide

/-- EqualReferenceHasNoError: index 132 is (127, 0, 0). -/
theorem witness_EqualReferenceHasNoError :
    ∃ (s : State) (h : s.idx.toNat < 133), s.phase = .run ∧
      encodeIndex tables ⟨s.idx.toNat, h⟩ = ⟨(127#8).toNat, (0#8).toNat, (0#8).toNat⟩ :=
  ⟨st .run none 132 4 1 (-3) 2, by decide, by decide, by decide⟩

/-- OnlyAclrAndAcmpMoveIdx: an ACMP and an ACLR that move IDX. -/
theorem witness_OnlyAclrAndAcmpMoveIdx :
    (∃ t, step runState = .next t ∧ t.idx ≠ runState.idx) ∧
    ∃ t, step (st .run none 40 900 30 (-12) 77 [0x20000000]) = .next t ∧
      t.idx ≠ (st .run none 40 900 30 (-12) 77 [0x20000000]).idx :=
  ⟨⟨_, rfl, by decide⟩, _, rfl, by decide⟩

/-- EachFaultRaisedByItsRule: a state before an ENC outside the domain, an ACMP at 133, an AFIN at 132, an ACMP in IDLE,
an RDS in RUN. -/
theorem witness_EachFaultRaisedByItsRule :
    (∃ t, step (st .idle none 0 0 (-255) 255 0 [0x10000085]) = .next t ∧ t.cause = some .domainViolation) ∧
    (∃ t, step (st .run none 133 0 0 0 0 [0x30000000]) = .next t ∧ t.cause = some .inputShapeError) ∧
    (∃ t, step (st .run none 132 0 0 0 0 [0x40000000]) = .next t ∧ t.cause = some .inputShapeError) ∧
    (∃ t, step (st .idle none 0 0 (-255) 255 0 [0x30000000]) = .next t ∧ t.cause = some .illegalOperation) ∧
    ∃ t, step (st .run none 5 12 3 (-4) 6 [0x50000003]) = .next t ∧ t.cause = some .illegalOperation :=
  ⟨⟨_, rfl, by decide⟩, ⟨_, rfl, by decide⟩, ⟨_, rfl, by decide⟩, ⟨_, rfl, by decide⟩, _, rfl, by decide⟩

theorem witness_FaultEntryIsPrecise :
    ∃ (s t : State) (w : Word) (rest : List HostAction), s.actions = .command w :: rest ∧ step s = .next t ∧
      s.phase ≠ .faulted ∧ t.phase = .faulted :=
  ⟨st .run none 132 0 0 0 0 [0x40000000], _, 0x40000000, [], by decide, rfl, by decide, by decide⟩

/-- FaultedRefusesEveryWord: a legal and an illegal word. -/
theorem witness_FaultedRefusesEveryWord :
    faultedState.actions = [.command 0x10000000#32] ∧ faultedState.phase = .faulted ∧
    (st .faulted (some .inputShapeError) 2 2 0 0 0 [0]).actions = [.command 0#32] := by decide

theorem witness_OnlyResetLeavesFaulted :
    ∃ s t : State, s.phase = .faulted ∧ step s = .next t ∧ (t.phase ≠ .faulted ∨ t.cause ≠ s.cause) :=
  ⟨{ faultedState with actions := [.reset] }, _, by decide, rfl, by decide⟩

/-- StatusIsTheCause: a command that is performed and one that faults. -/
theorem witness_StatusIsTheCause :
    (runState.actions = [.command 0x30000000#32] ∧ MachineInv runState) ∧
    (faultedState.actions = [.command 0x10000000#32] ∧ MachineInv faultedState) :=
  ⟨⟨by decide, runState_inv⟩, by decide, faultedState_inv⟩

theorem witness_ResetEventForgetsEverything :
    ∃ (s : State) (rest : List HostAction), s.actions = .reset :: rest :=
  ⟨{ faultedState with actions := [.reset, .command 0x10000000] }, [.command 0x10000000], rfl⟩

theorem witness_EveryCommandAnsweredOnce :
    ∃ (s : State) (w : Word) (rest : List HostAction), s.actions = .command w :: rest :=
  ⟨fullState, 0x40000000, [], by decide⟩

/-- StepKeepsTheInvariants: a step inside a pass and the step that closes one. -/
theorem witness_StepKeepsTheInvariants :
    (∃ t, MachineInv runState ∧ step runState = .next t) ∧ ∃ t, MachineInv fullState ∧ step fullState = .next t :=
  ⟨⟨_, runState_inv, rfl⟩, _, fullState_inv, rfl⟩

/-- WrongLengthIsRejected: the empty reference, one entry short, one too many. -/
theorem witness_WrongLengthIsRejected :
    ([] : List (BitVec 24)).length ≠ 133 ∧ (List.replicate 132 0#24).length ≠ 133 ∧
    (List.replicate 134 0#24).length ≠ 133 ∧ State.reset.phase ≠ .faulted :=
  ⟨by simp, by simp, by simp, by decide⟩

theorem witness_SummaryScalarsMeanWhatTheySay : ∃ s : State, MachineInv s ∧ s.phase = .done :=
  ⟨doneState, doneState_inv, by decide⟩

end Sys2Proof.Tests
end

/-! ## One step, one response (00_scope.md R6) -/

namespace Sys2Proof.Machine

/-- `t` follows `s` by an answer: the host's actions are as they were, and one response word has been added. -/
def AnsweredOnce (s t : State) : Prop :=
  t.actions = s.actions ∧ ∃ x, t.responses = s.responses ++ [x]

/-- What is written to registers before the response does not matter, as long as the ports are left alone. -/
theorem respond_answeredOnce {s u : State} (st : BitVec 4) (pay : BitVec 28) (ha : u.actions = s.actions)
    (hr : u.responses = s.responses) : AnsweredOnce s (respond st pay u) :=
  ⟨ha, responseWord st pay, by rw [respond_responses, hr]⟩

theorem raiseFault_answeredOnce (c : FaultCause) (s : State) : AnsweredOnce s (raiseFault c s) :=
  respond_answeredOnce c.code 0#28 rfl rfl

theorem refuse_answeredOnce (s : State) : AnsweredOnce s (refuse s) :=
  respond_answeredOnce (statusOfCause s.cause) 0#28 rfl rfl

theorem encBody_answeredOnce (idxf : BitVec 8) (s : State) : AnsweredOnce s (encBody idxf s) := by
  by_cases h : idxf.toNat < 133
  · rw [encBody_of_lt h]
    exact respond_answeredOnce _ _ rfl rfl
  · rw [encBody_of_ge h]
    exact raiseFault_answeredOnce _ s

theorem aclrBody_answeredOnce (s : State) : AnsweredOnce s (aclrBody s) :=
  respond_answeredOnce 0#4 0#28 rfl rfl

theorem acmpBody_answeredOnce (ref : Rgb) (s : State) : AnsweredOnce s (acmpBody ref s) := by
  by_cases h : s.idx.toNat < 133
  · rw [acmpBody_of_lt h]
    exact respond_answeredOnce _ _ rfl rfl
  · rw [acmpBody_of_ge h]
    exact raiseFault_answeredOnce _ s

theorem afinBody_answeredOnce (s : State) : AnsweredOnce s (afinBody s) := by
  by_cases h : s.idx.toNat = 133
  · rw [afinBody_of_full h]
    exact respond_answeredOnce _ _ rfl rfl
  · rw [afinBody_of_short h]
    exact raiseFault_answeredOnce _ s

theorem rdsBody_answeredOnce (sel : Sel) (s : State) : AnsweredOnce s (rdsBody sel s) :=
  respond_answeredOnce 0#4 (rdsPayload sel s) rfl rfl

theorem bodyOf_answeredOnce (i : Instr) (s : State) : AnsweredOnce s (bodyOf i s) := by
  cases i with
  | enc idxf => exact encBody_answeredOnce idxf s
  | aclr => exact aclrBody_answeredOnce s
  | acmp rr rg rb => exact acmpBody_answeredOnce (rgbOfFields rr rg rb) s
  | afin => exact afinBody_answeredOnce s
  | rds sel => exact rdsBody_answeredOnce sel s

/-- A command word, legal or not, never stops the machine, and is answered once. -/
theorem runWord_answeredOnce (w : Word) (s : State) : ∃ t, runWord w s = .next t ∧ AnsweredOnce s t := by
  rcases runWord_cases w s with ⟨-, h⟩ | ⟨-, -, h⟩ | ⟨_, -, -, -, h⟩ | ⟨i, -, -, -, h⟩
  · exact ⟨_, h, refuse_answeredOnce s⟩
  · exact ⟨_, h, raiseFault_answeredOnce _ s⟩
  · exact ⟨_, h, raiseFault_answeredOnce _ s⟩
  · exact ⟨_, h, bodyOf_answeredOnce i s⟩

theorem step_of_command {s : State} {w : Word} {rest : List HostAction} (h : s.actions = .command w :: rest) :
    step s = runWord w (withActions rest s) := by
  rw [step, takeAction_cons h]
  rfl

/-- Settles O40: the step runs the word on the state from which it has been taken, and every word is answered once. -/
theorem everyCommandAnsweredOnce : Obligations.EveryCommandAnsweredOnce := by
  intro s w rest hs
  obtain ⟨t, ht, hactions, x, hresponses⟩ := runWord_answeredOnce w (withActions rest s)
  exact ⟨t, x, (step_of_command hs).trans ht, hactions, hresponses⟩

end Sys2Proof.Machine

/-! ## The state after reset (10_state.md R28) -/

namespace Sys2Proof.Machine

/-- The block's own tables pass the check that reset makes (R120). -/
theorem tableCheck_tables : tableCheck tables = true := by decide

/-- Reset reads the tables through the table check only. -/
theorem afterReset_of_pass {t : Tables} (h : tableCheck t = true) : State.afterReset t = State.reset := by
  simp [State.reset, State.afterReset, h, tableCheck_tables]

theorem afterReset_of_fail {t : Tables} (h : ¬ tableCheck t = true) :
    State.afterReset t = { State.reset with phase := .faulted, cause := some .degenerateTable } := by
  simp [State.reset, State.afterReset, h]

/-- Settles O37: the listed values by evaluation, and the failing reset by the two outcomes of the table check. -/
theorem resetValuesAreTheListedOnes : Obligations.ResetValuesAreTheListedOnes := by
  refine ⟨by decide, fun tb => ?_, by decide, by decide, by decide, by decide⟩
  by_cases h : tableCheck tb = true
  · rw [if_pos h, afterReset_of_pass h]
  · rw [if_neg h, afterReset_of_fail h]

end Sys2Proof.Machine

/-! ## No hidden state (10_state.md R27, 40_encoder.md R78) -/

namespace Sys2Proof.Machine

open Sys2Proof.Safety

/-- The state with the registers of `s` and with other contents of the two ports. -/
def withPorts (actions : List HostAction) (responses : List Word) (s : State) : State :=
  { s with actions := actions, responses := responses }

/-- States with the same registers differ in their ports at most. -/
theorem eq_withPorts_of_sameRegisters {s s' : State} (h : SameRegisters s s') :
    s' = withPorts s'.actions s'.responses s := by
  obtain ⟨hphase, hcause, hidx, hsumabs, hmaxe, hmine, hnz⟩ := h
  simp only [withPorts, hphase, hcause, hidx, hsumabs, hmaxe, hmine, hnz]

theorem sameRegisters_withPorts (as as' : List HostAction) (rs rs' : List Word) (s : State) :
    SameRegisters (withPorts as rs s) (withPorts as' rs' s) := ⟨rfl, rfl, rfl, rfl, rfl, rfl, rfl⟩

/-- Whatever stands on the ports, `m` on the registers of `s` leaves the registers of one state `t`, and one word `x`
is its response: neither depends on the ports. -/
def AnswersFromRegisters (m : State → Host.Outcome State Fault Refusal) (s : State) : Prop :=
  ∃ t x, ∀ as rs, m (withPorts as rs s) = .next (withPorts as (rs ++ [x]) t)

theorem AnswersFromRegisters.congr {m m' : State → Host.Outcome State Fault Refusal} {s : State}
    (h : AnswersFromRegisters m' s) (heq : ∀ as rs, m (withPorts as rs s) = m' (withPorts as rs s)) :
    AnswersFromRegisters m s := by
  obtain ⟨t, x, ht⟩ := h
  exact ⟨t, x, fun as rs => (heq as rs).trans (ht as rs)⟩

theorem respond_answersFromRegisters (st : BitVec 4) (pay : BitVec 28) (s : State) :
    AnswersFromRegisters (.next ∘ respond st pay) s :=
  ⟨s, responseWord st pay, fun _ _ => rfl⟩

theorem raiseFault_answersFromRegisters (c : FaultCause) (s : State) :
    AnswersFromRegisters (.next ∘ raiseFault c) s :=
  ⟨raiseFault c s, responseWord c.code 0#28, fun _ _ => rfl⟩

theorem refuse_answersFromRegisters (s : State) : AnswersFromRegisters (.next ∘ refuse) s :=
  ⟨s, responseWord (statusOfCause s.cause) 0#28, fun _ _ => rfl⟩

theorem encBody_answersFromRegisters (idxf : BitVec 8) (s : State) :
    AnswersFromRegisters (.next ∘ encBody idxf) s := by
  by_cases h : idxf.toNat < 133
  · exact (respond_answersFromRegisters _ _ s).congr fun _ _ => congrArg Host.Outcome.next (encBody_of_lt h _)
  · exact (raiseFault_answersFromRegisters _ s).congr fun _ _ => congrArg Host.Outcome.next (encBody_of_ge h _)

theorem aclrBody_answersFromRegisters (s : State) : AnswersFromRegisters (.next ∘ aclrBody) s :=
  ⟨aclrBody s, responseWord 0#4 0#28, fun _ _ => rfl⟩

/-- The comparator and the accumulator read IDX and the four aggregates, all of them registers. -/
theorem acmpBody_answersFromRegisters (ref : Rgb) (s : State) :
    AnswersFromRegisters (.next ∘ acmpBody ref) s := by
  by_cases h : s.idx.toNat < 133
  · exact ⟨{ accumulateEntry (entryErrors ⟨s.idx.toNat, h⟩ ref) s with idx := s.idx + 1 },
      responseWord 0#4 (acmpPayload (entryErrors ⟨s.idx.toNat, h⟩ ref)),
      fun as rs => congrArg Host.Outcome.next (acmpBody_of_lt (s := withPorts as rs s) h ref)⟩
  · exact (raiseFault_answersFromRegisters _ s).congr fun as rs =>
      congrArg Host.Outcome.next (acmpBody_of_ge (s := withPorts as rs s) h ref)

theorem afinBody_answersFromRegisters (s : State) : AnswersFromRegisters (.next ∘ afinBody) s := by
  by_cases h : s.idx.toNat = 133
  · exact ⟨{ s with phase := .done }, responseWord 0#4 0#28,
      fun as rs => congrArg Host.Outcome.next (afinBody_of_full (s := withPorts as rs s) h)⟩
  · exact (raiseFault_answersFromRegisters _ s).congr fun as rs =>
      congrArg Host.Outcome.next (afinBody_of_short (s := withPorts as rs s) h)

theorem rdsBody_answersFromRegisters (sel : Sel) (s : State) : AnswersFromRegisters (.next ∘ rdsBody sel) s := by
  refine ⟨s, responseWord 0#4 (rdsPayload sel s), fun as rs => ?_⟩
  cases sel <;> rfl

theorem bodyOf_answersFromRegisters (i : Instr) (s : State) : AnswersFromRegisters (.next ∘ bodyOf i) s := by
  cases i with
  | enc idxf => exact encBody_answersFromRegisters idxf s
  | aclr => exact aclrBody_answersFromRegisters s
  | acmp rr rg rb => exact acmpBody_answersFromRegisters (rgbOfFields rr rg rb) s
  | afin => exact afinBody_answersFromRegisters s
  | rds sel => exact rdsBody_answersFromRegisters sel s

/-- The order of checks of R106 reads PHASE only; the body counts where it is run. -/
theorem perform_answersFromRegisters {legal : List Phase} {s : State} {body : State → State}
    (hbody : s.phase ∈ legal → AnswersFromRegisters (.next ∘ body) s) :
    AnswersFromRegisters (fun u => perform legal u body) s := by
  by_cases hp : s.phase = .faulted
  · exact (refuse_answersFromRegisters s).congr fun as rs => perform_of_faulted (s := withPorts as rs s) hp
  · by_cases hl : s.phase ∈ legal
    · exact (hbody hl).congr fun as rs => perform_of_legal (s := withPorts as rs s) hp hl
    · exact (raiseFault_answersFromRegisters _ s).congr fun as rs =>
        perform_of_illegal (s := withPorts as rs s) hp hl

theorem exec_answersFromRegisters (i : Instr) (s : State) : AnswersFromRegisters (exec i) s :=
  (perform_answersFromRegisters fun _ => bodyOf_answersFromRegisters i s).congr fun _ _ => exec_eq_perform i _

theorem illegalWord_answersFromRegisters (s : State) : AnswersFromRegisters illegalWord s :=
  perform_answersFromRegisters fun h => absurd h List.not_mem_nil

theorem runWord_answersFromRegisters (w : Word) (s : State) : AnswersFromRegisters (runWord w) s := by
  cases hd : decode w with
  | ok i => exact (exec_answersFromRegisters i s).congr fun as rs => by rw [runWord, hd]
  | error e => exact (illegalWord_answersFromRegisters s).congr fun as rs => by rw [runWord, hd]

/-- The response of a legal ENC is a function of its index alone (R78). -/
theorem encBody_response (idxf : BitVec 8) : ∃ x, ∀ s, (encBody idxf s).responses = s.responses ++ [x] := by
  by_cases h : idxf.toNat < 133
  · exact ⟨_, fun s => by rw [encBody_of_lt h, respond_responses]⟩
  · exact ⟨_, fun s => by rw [encBody_of_ge h, raiseFault_responses]⟩

/-- ENC is legal in every phase but FAULTED (R63). -/
theorem exec_enc_of_not_faulted {s : State} (idxf : BitVec 8) (h : s.phase ≠ .faulted) :
    exec (.enc idxf) s = .next (encBody idxf s) := by
  refine (exec_eq_perform _ s).trans (perform_of_legal h ?_)
  change s.phase ∈ [.idle, .run, .done]
  cases hp : s.phase with
  | idle | run | done => decide
  | faulted => exact absurd hp h

/-- Settles O26: states with the same registers differ in their ports only, which no command reads; ENC reads no
register either, once it is legal. -/
theorem responseDependsOnRegistersOnly : Obligations.ResponseDependsOnRegistersOnly := by
  refine ⟨fun s s' w rest rest' hregs hs hs' => ?_, fun s s' idxf hp hp' => ?_⟩
  · obtain ⟨t, x, hrun⟩ := runWord_answersFromRegisters w s
    have hports : withActions rest' s' = withPorts rest' s'.responses s :=
      congrArg (withActions rest') (eq_withPorts_of_sameRegisters hregs)
    refine ⟨withPorts rest (s.responses ++ [x]) t, withPorts rest' (s'.responses ++ [x]) t, x, ?_, ?_,
      sameRegisters_withPorts _ _ _ _ t, rfl, rfl⟩
    · exact (step_of_command hs).trans (hrun rest s.responses)
    · rw [step_of_command hs', hports, hrun]
  · obtain ⟨x, hx⟩ := encBody_response idxf
    exact ⟨_, _, x, exec_enc_of_not_faulted idxf hp, exec_enc_of_not_faulted idxf hp', hx s, hx s'⟩

end Sys2Proof.Machine

/-! ## Commands and their words (30_encoding.md R46 to R51) -/

namespace Sys2Proof

@[simp] theorem selOfBits_selBits (sel : Sel) : selOfBits (selBits sel) = sel := by
  cases sel <;> rfl

@[simp] theorem selBits_selOfBits (b : BitVec 2) : selBits (selOfBits b) = b := by
  revert b
  decide

/-! The word of each command with operands: its fixed high bits, then the operands (R48, R50, R51). -/

theorem encode_enc (x : BitVec 8) : encode (.enc x) = 0x100000#24 ++ x :=
  (BitVec.append_assoc' (x₁ := 0x10#8) (x₂ := 0#16) (x₃ := x)).trans rfl

theorem encode_acmp (rr rg rb : BitVec 8) : encode (.acmp rr rg rb) = 0x30#8 ++ (rr ++ rg ++ rb) := rfl

theorem encode_rds (sel : Sel) : encode (.rds sel) = 0x14000000#30 ++ selBits sel := by
  cases sel <;> rfl

/-- The three channels of a colour word, in the order red, green, blue (R50, R57). -/
theorem colour_channels (r g b : BitVec 8) : (r ++ g ++ b).extractLsb' 16 8 = r ∧
    (r ++ g ++ b).extractLsb' 8 8 = g ∧ (r ++ g ++ b).extractLsb' 0 8 = b := by
  refine ⟨?_, ?_, BitVec.extractLsb'_append_eq_right⟩
  · exact (BitVec.extractLsb'_append_eq_of_le (by decide)).trans BitVec.extractLsb'_append_eq_left
  · exact (BitVec.extractLsb'_append_eq_of_le (by decide)).trans BitVec.extractLsb'_append_eq_right

/-- The decoder reads back every operand the encoder placed. -/
theorem decode_encode (i : Instr) : decode (encode i) = .ok i := by
  cases i with
  | enc x =>
    have hhigh : (0#16 ++ x).extractLsb' 8 16 = 0#16 := BitVec.extractLsb'_append_eq_left
    have hlow : (0#16 ++ x).extractLsb' 0 8 = x := BitVec.extractLsb'_append_eq_right
    simp [encode, decode, hhigh, hlow]
  | aclr => rfl
  | acmp rr rg rb =>
    obtain ⟨hr, hg, hb⟩ := colour_channels rr rg rb
    simp [encode, decode, hr, hg, hb]
  | afin => rfl
  | rds sel => cases sel <;> rfl

/-- Every bit of an accepted word is an operand bit or is checked, so the command determines the word. -/
theorem encode_of_decode {w : Word} {i : Instr} (h : decode w = .ok i) : encode i = w := by
  by_cases hrsv : cmdRsv w = 0
  case neg => exact nomatch (if_pos hrsv).symm.trans h
  rw [← formatC_fields hrsv] at h ⊢
  generalize cmdOp w = op at h ⊢
  generalize cmdArg w = arg at h ⊢
  have hsplit : arg.extractLsb' 8 16 ++ arg.extractLsb' 0 8 = arg := BitVec.extractLsb'_append_extractLsb'
  have hcolour : arg.extractLsb' 16 8 ++ arg.extractLsb' 8 8 = arg.extractLsb' 8 16 :=
    BitVec.extractLsb'_append_extractLsb'_eq_extractLsb' rfl
  have hsel : arg.extractLsb' 2 22 ++ arg.extractLsb' 0 2 = arg := BitVec.extractLsb'_append_extractLsb'
  simp only [decode, cmdRsv_formatC, cmdOp_formatC, cmdArg_formatC] at h
  split_ifs at h with _ henc harg haclr harg hacmp hafin harg hrds harg <;> cases h
  · exact congrArg₂ formatC henc.symm ((congrArg (· ++ _) harg.symm).trans hsplit)
  · exact congrArg₂ formatC haclr.symm harg.symm
  · exact congrArg₂ formatC hacmp.symm ((congrArg (· ++ _) hcolour).trans hsplit)
  · exact congrArg₂ formatC hafin.symm harg.symm
  · refine congrArg₂ formatC hrds.symm ?_
    rw [selBits_selOfBits]
    exact (congrArg (· ++ _) harg.symm).trans hsel

theorem decode_eq_ok_iff {w : Word} {i : Instr} : decode w = .ok i ↔ w = encode i :=
  ⟨fun h => (encode_of_decode h).symm, fun h => h ▸ decode_encode i⟩

end Sys2Proof

/-! ## The match/mask rows (30_encoding.md R47) -/

namespace Sys2Proof

/-- Masking off `n` low bits leaves the pattern `p` exactly where `p` stands in the high bits. -/
theorem and_highMask_eq_iff {m n : Nat} (p : BitVec m) (w : BitVec (m + n)) :
    w &&& (BitVec.allOnes m ++ 0#n) = p ++ 0#n ↔ w.extractLsb' n m = p := by
  conv_lhs => rw [← BitVec.extractLsb'_append_extractLsb' (x := w)]
  rw [BitVec.and_append, BitVec.and_allOnes, BitVec.and_zero, BitVec.append_left_inj]

/-! The rows of `opcodeRows` by name, so that a lemma can speak of one of them. -/

/-- The row of ENC in `opcodeRows`. -/
def encRow : OpcodeRow := ⟨"ENC", 0x10000000, 0xFFFFFF00⟩

/-- The row of ACLR in `opcodeRows`. -/
def aclrRow : OpcodeRow := ⟨"ACLR", 0x20000000, 0xFFFFFFFF⟩

/-- The row of ACMP in `opcodeRows`. -/
def acmpRow : OpcodeRow := ⟨"ACMP", 0x30000000, 0xFF000000⟩

/-- The row of AFIN in `opcodeRows`. -/
def afinRow : OpcodeRow := ⟨"AFIN", 0x40000000, 0xFFFFFFFF⟩

/-- The row of RDS in `opcodeRows`. -/
def rdsRow : OpcodeRow := ⟨"RDS", 0x50000000, 0xFFFFFFFC⟩

theorem mem_opcodeRows_iff {r : OpcodeRow} :
    r ∈ opcodeRows ↔ r = encRow ∨ r = aclrRow ∨ r = acmpRow ∨ r = afinRow ∨ r = rdsRow := by
  change r ∈ [encRow, aclrRow, acmpRow, afinRow, rdsRow] ↔ _
  simp

theorem selects_encRow_iff (w : Word) : encRow.selects w = true ↔ w.extractLsb' 8 24 = 0x100000#24 :=
  beq_iff_eq.trans (and_highMask_eq_iff (n := 8) 0x100000#24 w)

theorem selects_aclrRow_iff (w : Word) : aclrRow.selects w = true ↔ w = encode .aclr :=
  beq_iff_eq.trans (by rw [show aclrRow.mask = BitVec.allOnes 32 from rfl, BitVec.and_allOnes]; rfl)

theorem selects_acmpRow_iff (w : Word) : acmpRow.selects w = true ↔ w.extractLsb' 24 8 = 0x30#8 :=
  beq_iff_eq.trans (and_highMask_eq_iff (n := 24) 0x30#8 w)

theorem selects_afinRow_iff (w : Word) : afinRow.selects w = true ↔ w = encode .afin :=
  beq_iff_eq.trans (by rw [show afinRow.mask = BitVec.allOnes 32 from rfl, BitVec.and_allOnes]; rfl)

theorem selects_rdsRow_iff (w : Word) : rdsRow.selects w = true ↔ w.extractLsb' 2 30 = 0x14000000#30 :=
  beq_iff_eq.trans (and_highMask_eq_iff (n := 2) 0x14000000#30 w)

theorem exists_row_selecting_encode (i : Instr) :
    ∃ r ∈ opcodeRows, r.mnemonic = mnemonic i ∧ r.selects (encode i) = true := by
  cases i with
  | enc x =>
    refine ⟨encRow, by decide, rfl, (selects_encRow_iff _).2 ?_⟩
    rw [encode_enc, BitVec.extractLsb'_append_eq_left]
  | aclr => exact ⟨aclrRow, by decide, rfl, (selects_aclrRow_iff _).2 rfl⟩
  | acmp rr rg rb =>
    refine ⟨acmpRow, by decide, rfl, (selects_acmpRow_iff _).2 ?_⟩
    rw [encode_acmp, BitVec.extractLsb'_append_eq_left]
  | afin => exact ⟨afinRow, by decide, rfl, (selects_afinRow_iff _).2 rfl⟩
  | rds sel =>
    refine ⟨rdsRow, by decide, rfl, (selects_rdsRow_iff _).2 ?_⟩
    rw [encode_rds, BitVec.extractLsb'_append_eq_left]

/-- A row fixes every bit of a word that is no operand, so a selected word is a command's word. -/
theorem exists_encode_of_selects {r : OpcodeRow} {w : Word} (hr : r ∈ opcodeRows) (h : r.selects w = true) :
    ∃ i, w = encode i ∧ mnemonic i = r.mnemonic := by
  rcases mem_opcodeRows_iff.1 hr with rfl | rfl | rfl | rfl | rfl
  · refine ⟨.enc (w.extractLsb' 0 8), ?_, rfl⟩
    rw [encode_enc, ← (selects_encRow_iff w).1 h]
    exact (BitVec.extractLsb'_append_extractLsb' (w := 24) (len := 8)).symm
  · exact ⟨.aclr, (selects_aclrRow_iff w).1 h, rfl⟩
  · refine ⟨.acmp (w.extractLsb' 16 8) (w.extractLsb' 8 8) (w.extractLsb' 0 8), ?_, rfl⟩
    have hcolour : w.extractLsb' 16 8 ++ w.extractLsb' 8 8 = w.extractLsb' 8 16 :=
      BitVec.extractLsb'_append_extractLsb'_eq_extractLsb' rfl
    have harg : w.extractLsb' 8 16 ++ w.extractLsb' 0 8 = w.extractLsb' 0 24 :=
      BitVec.extractLsb'_append_extractLsb'_eq_extractLsb' rfl
    rw [encode_acmp, ← (selects_acmpRow_iff w).1 h, hcolour, harg]
    exact (BitVec.extractLsb'_append_extractLsb' (w := 8) (len := 24)).symm
  · exact ⟨.afin, (selects_afinRow_iff w).1 h, rfl⟩
  · refine ⟨.rds (selOfBits (w.extractLsb' 0 2)), ?_, rfl⟩
    rw [encode_rds, selBits_selOfBits, ← (selects_rdsRow_iff w).1 h]
    exact (BitVec.extractLsb'_append_extractLsb' (w := 30) (len := 2)).symm

theorem exists_decode_of_selects {r : OpcodeRow} {w : Word} (hr : r ∈ opcodeRows) (h : r.selects w = true) :
    ∃ i, decode w = .ok i ∧ mnemonic i = r.mnemonic := by
  obtain ⟨i, hw, hm⟩ := exists_encode_of_selects hr h
  exact ⟨i, decode_eq_ok_iff.2 hw, hm⟩

theorem opcodeRow_eq_of_mnemonic_eq :
    ∀ r ∈ opcodeRows, ∀ r' ∈ opcodeRows, r.mnemonic = r'.mnemonic → r = r' := by decide

/-- A word decodes to one command at most, and the rows have different mnemonics. -/
theorem opcodeRow_eq_of_selects {r r' : OpcodeRow} {w : Word} (hr : r ∈ opcodeRows) (hr' : r' ∈ opcodeRows)
    (h : r.selects w = true) (h' : r'.selects w = true) : r = r' := by
  obtain ⟨i, hd, hm⟩ := exists_decode_of_selects hr h
  obtain ⟨j, hd', hm'⟩ := exists_decode_of_selects hr' h'
  obtain rfl : i = j := Except.ok.inj (hd.symm.trans hd')
  exact opcodeRow_eq_of_mnemonic_eq r hr r' hr' (hm.symm.trans hm')

/-- The layout of ENC (R48), of any word that decodes to it. -/
theorem fields_of_decode_enc {w : Word} {x : BitVec 8} (h : decode w = .ok (.enc x)) :
    w.extractLsb' 8 24 = 0x100000#24 ∧ x = w.extractLsb' 0 8 := by
  rw [decode_eq_ok_iff.1 h, encode_enc]
  exact ⟨BitVec.extractLsb'_append_eq_left, BitVec.extractLsb'_append_eq_right.symm⟩

/-- The layout of ACMP (R50). -/
theorem fields_of_decode_acmp {w : Word} {rr rg rb : BitVec 8} (h : decode w = .ok (.acmp rr rg rb)) :
    w.extractLsb' 24 8 = 0x30#8 ∧ rr = w.extractLsb' 16 8 ∧ rg = w.extractLsb' 8 8 ∧ rb = w.extractLsb' 0 8 := by
  rw [decode_eq_ok_iff.1 h, encode_acmp]
  obtain ⟨hr, hg, hb⟩ := colour_channels rr rg rb
  refine ⟨BitVec.extractLsb'_append_eq_left, hr.symm.trans ?_, hg.symm.trans ?_, hb.symm.trans ?_⟩ <;>
    exact (BitVec.extractLsb'_append_eq_of_add_le (by decide)).symm

/-- The layout of RDS (R51). -/
theorem fields_of_decode_rds {w : Word} {sel : Sel} (h : decode w = .ok (.rds sel)) :
    w.extractLsb' 2 30 = 0x14000000#30 ∧ selBits sel = w.extractLsb' 0 2 := by
  rw [decode_eq_ok_iff.1 h, encode_rds]
  exact ⟨BitVec.extractLsb'_append_eq_left, BitVec.extractLsb'_append_eq_right.symm⟩

/-- Settles O2: a word decodes to a command exactly when it is the command's word, and the rows select the words of
their commands. -/
theorem opcodeMapIsTheDecoder : Obligations.OpcodeMapIsTheDecoder := by
  refine ⟨fun w i h => ?_, fun w r hr => exists_decode_of_selects hr, fun w x => fields_of_decode_enc,
    fun w => decode_eq_ok_iff, fun w rr rg rb => fields_of_decode_acmp, fun w => decode_eq_ok_iff,
    fun w sel => fields_of_decode_rds, fun w r hr r' hr' => opcodeRow_eq_of_selects hr hr', ⟨_, rfl⟩, ⟨_, rfl⟩⟩
  rw [decode_eq_ok_iff.1 h]
  exact exists_row_selecting_encode i

end Sys2Proof

/-! ## Illegal words (30_encoding.md R59) -/

namespace Sys2Proof

theorem wordIllegal_encode (i : Instr) : WellFormed.wordIllegal (encode i) = false := by
  cases i with
  | enc idxf => exact Laws.LegalWord.enc idxf
  | aclr => exact Laws.LegalWord.aclr
  | acmp rr rg rb => exact Laws.LegalWord.acmp rr rg rb
  | afin => exact Laws.LegalWord.afin
  | rds sel => exact Laws.LegalWord.rds sel

/-- An accepted word is the word of a command, and those are legal. -/
theorem exists_decode_error_of_wordIllegal {w : Word} (h : WellFormed.wordIllegal w = true) :
    ∃ e, decode w = .error e := by
  cases hd : decode w with
  | error e => exact ⟨e, rfl⟩
  | ok i =>
    have hlegal : WellFormed.wordIllegal w = false := decode_eq_ok_iff.1 hd ▸ wordIllegal_encode i
    simp [hlegal] at h

end Sys2Proof

namespace Sys2Proof.Machine

theorem runWord_of_wordIllegal {w : Word} (h : WellFormed.wordIllegal w = true) (s : State) :
    runWord w s = illegalWord s := by
  obtain ⟨e, he⟩ := exists_decode_error_of_wordIllegal h
  rw [runWord, he]

/-- Settles O8: an illegal word is refused by the decoder, and no phase is legal for it. -/
theorem illegalWordFaults : Obligations.IllegalWordFaults := by
  intro s w rest hs hw
  rw [step_of_command hs, runWord_of_wordIllegal hw]
  by_cases hp : s.phase = .faulted
  · rw [if_pos hp]
    exact perform_of_faulted hp
  · rw [if_neg hp]
    exact perform_of_illegal hp List.not_mem_nil

end Sys2Proof.Machine

/-! ## The status of a response (30_encoding.md R52, R53) -/

namespace Sys2Proof.Machine

open Sys2Proof.Safety

@[simp] theorem respStatus_responseWord (st : BitVec 4) (pay : BitVec 28) :
    respStatus (responseWord st pay) = st := BitVec.extractLsb'_append_eq_left

@[simp] theorem respPayload_responseWord (st : BitVec 4) (pay : BitVec 28) :
    respPayload (responseWord st pay) = pay := BitVec.extractLsb'_append_eq_right

theorem statusOfCause_ne_zero_iff {c : Option FaultCause} : statusOfCause c ≠ 0 ↔ c ≠ none := by
  cases c with
  | none => decide
  | some f => cases f <;> decide

/-- PHASE is FAULTED exactly when CAUSE is not 0 (R29). -/
def PhaseMatchesCause (s : State) : Prop := s.phase = .faulted ↔ s.cause ≠ none

theorem cause_eq_none_of_not_faulted {s : State} (hm : PhaseMatchesCause s) (hp : s.phase ≠ .faulted) :
    s.cause = none := not_not.1 (mt hm.2 hp)

/-- `t` follows `s` by a response whose status is the code of CAUSE in `t`; PHASE agrees with that CAUSE, and the
payload is 0 where it records a fault. -/
def AnsweredWithCause (s t : State) : Prop :=
  PhaseMatchesCause t ∧
    ∃ pay, t.responses = s.responses ++ [responseWord (statusOfCause t.cause) pay] ∧ (t.cause ≠ none → pay = 0#28)

theorem raiseFault_answeredWithCause (c : FaultCause) (s : State) : AnsweredWithCause s (raiseFault c s) :=
  ⟨by simp [PhaseMatchesCause], 0#28, rfl, fun _ => rfl⟩

theorem refuse_answeredWithCause {s : State} (hm : PhaseMatchesCause s) : AnsweredWithCause s (refuse s) :=
  ⟨hm, 0#28, rfl, fun _ => rfl⟩

/-- An OK response, whatever its payload and whatever else `u` differs in from `s`. -/
theorem respond_answeredWithCause {s u : State} (pay : BitVec 28) (hr : u.responses = s.responses)
    (hc : u.cause = none) (hp : u.phase ≠ .faulted) : AnsweredWithCause s (respond 0#4 pay u) := by
  refine ⟨by simp [PhaseMatchesCause, hc, hp], pay, ?_, fun h => absurd hc h⟩
  rw [respond_responses, respond_cause, hr, hc]
  rfl

theorem bodyOf_answeredWithCause (i : Instr) {s : State} (hc : s.cause = none) (hp : s.phase ≠ .faulted) :
    AnsweredWithCause s (bodyOf i s) := by
  cases i with
  | enc idxf =>
    change AnsweredWithCause s (encBody idxf s)
    by_cases h : idxf.toNat < 133
    · rw [encBody_of_lt h]
      exact respond_answeredWithCause _ rfl hc hp
    · rw [encBody_of_ge h]
      exact raiseFault_answeredWithCause _ s
  | aclr => exact respond_answeredWithCause 0#28 rfl hc nofun
  | acmp rr rg rb =>
    change AnsweredWithCause s (acmpBody (rgbOfFields rr rg rb) s)
    by_cases h : s.idx.toNat < 133
    · rw [acmpBody_of_lt h]
      exact respond_answeredWithCause _ rfl hc hp
    · rw [acmpBody_of_ge h]
      exact raiseFault_answeredWithCause _ s
  | afin =>
    change AnsweredWithCause s (afinBody s)
    by_cases h : s.idx.toNat = 133
    · rw [afinBody_of_full h]
      exact respond_answeredWithCause _ rfl hc nofun
    · rw [afinBody_of_short h]
      exact raiseFault_answeredWithCause _ s
  | rds sel => exact respond_answeredWithCause (rdsPayload sel s) rfl hc hp

theorem runWord_answeredWithCause (w : Word) {s : State} (hm : PhaseMatchesCause s) :
    ∃ t, runWord w s = .next t ∧ AnsweredWithCause s t := by
  rcases runWord_cases w s with ⟨-, h⟩ | ⟨-, -, h⟩ | ⟨_, -, -, -, h⟩ | ⟨i, hp, -, -, h⟩
  · exact ⟨_, h, refuse_answeredWithCause hm⟩
  · exact ⟨_, h, raiseFault_answeredWithCause _ s⟩
  · exact ⟨_, h, raiseFault_answeredWithCause _ s⟩
  · exact ⟨_, h, bodyOf_answeredWithCause i (cause_eq_none_of_not_faulted hm hp) hp⟩

/-- Settles O36: taking the action changes no register, so R29's equivalence of PHASE and CAUSE holds before the
command; every outcome answers with CAUSE as it leaves it. -/
theorem statusIsTheCause : Obligations.StatusIsTheCause := by
  intro s w rest hs hinv
  obtain ⟨t, ht, hm, pay, hresp, hpay⟩ := runWord_answeredWithCause (s := withActions rest s) w hinv.faulted
  refine ⟨t, _, (step_of_command hs).trans ht, hresp, ?_, ?_, ?_⟩
  · rw [respStatus_responseWord]
    cases t.cause with
    | none => rfl
    | some f => cases f <;> rfl
  · rw [respStatus_responseWord, statusOfCause_ne_zero_iff]
    exact hm.symm
  · rw [respStatus_responseWord, statusOfCause_ne_zero_iff, respPayload_responseWord]
    exact hpay

end Sys2Proof.Machine

/-! ## Legal words and their commands (30_encoding.md R59) -/

namespace Sys2Proof

/-- The five conditions of R59, on the fields the decoder reads. -/
theorem wordIllegal_iff (w : Word) : WellFormed.wordIllegal w = true ↔
    (cmdOp w = 0 ∨ 6 ≤ cmdOp w) ∨ cmdRsv w ≠ 0 ∨ (cmdOp w = 1 ∧ (cmdArg w).extractLsb' 8 16 ≠ 0) ∨
    ((cmdOp w = 2 ∨ cmdOp w = 4) ∧ cmdArg w ≠ 0) ∨ (cmdOp w = 5 ∧ (cmdArg w).extractLsb' 2 22 ≠ 0) := by
  have henc : (cmdArg w).extractLsb' 8 16 = w.extractLsb' 8 16 := BitVec.extractLsb'_extractLsb'_of_le (by decide)
  have hrds : (cmdArg w).extractLsb' 2 22 = w.extractLsb' 2 22 := BitVec.extractLsb'_extractLsb'_of_le (by decide)
  rw [henc, hrds]
  simp [WellFormed.wordIllegal, WellFormed.opUndefined, WellFormed.rsvNotZero, WellFormed.encHighArg,
    WellFormed.plainArg, WellFormed.rdsHighArg, cmdOp, cmdRsv, cmdArg, or_assoc, BitVec.ule_eq_decide_le]

/-- The decoder rejects nothing beyond the five conditions of R59. -/
theorem wordIllegal_of_decode_error {w : Word} {e : DecodeError} (h : decode w = .error e) :
    WellFormed.wordIllegal w = true := by
  have hop : ∀ op : BitVec 4, op ≠ 1 → op ≠ 2 → op ≠ 3 → op ≠ 4 → op ≠ 5 → op = 0 ∨ 6 ≤ op := by decide
  rw [wordIllegal_iff]
  rw [decode] at h
  split_ifs at h with hrsv henc harg haclr harg hacmp hafin harg hrds harg
  · exact .inr (.inl hrsv)
  · exact .inr (.inr (.inl ⟨henc, harg⟩))
  · exact .inr (.inr (.inr (.inl ⟨.inl haclr, harg⟩)))
  · exact .inr (.inr (.inr (.inl ⟨.inr hafin, harg⟩)))
  · exact .inr (.inr (.inr (.inr ⟨hrds, harg⟩)))
  · exact .inl (hop _ henc haclr hacmp hafin hrds)

theorem exists_decode_of_legal {w : Word} (h : ¬ WellFormed.wordIllegal w = true) : ∃ i, decode w = .ok i := by
  cases hd : decode w with
  | ok i => exact ⟨i, rfl⟩
  | error e => exact absurd (wordIllegal_of_decode_error hd) h

/-- A legal word with ENC's OP is an ENC, because no other command's word has that OP. -/
theorem decode_of_legal_enc {w : Word} (h : ¬ WellFormed.wordIllegal w = true) (hop : cmdOp w = 1) :
    decode w = .ok (.enc (w.extractLsb' 0 8)) := by
  obtain ⟨i, hi⟩ := exists_decode_of_legal h
  have hopi : cmdOp (encode i) = 1 := encode_of_decode hi ▸ hop
  cases i with
  | enc x => rw [hi, (fields_of_decode_enc hi).2]
  | aclr | acmp | afin | rds => simp [encode] at hopi

end Sys2Proof

/-! ## The command ENC (40_encoder.md R63) -/

namespace Sys2Proof.Machine

open Sys2Proof.Safety

/-- A FAULTED block refuses every word, legal or not (R109). -/
theorem runWord_of_faulted (w : Word) {s : State} (h : s.phase = .faulted) : runWord w s = .next (refuse s) := by
  rw [runWord]
  cases decode w with
  | ok i => exact (exec_eq_perform i s).trans (perform_of_faulted h)
  | error e => exact perform_of_faulted h

/-- The OK response of ENC (R52, R54, R57): eight zero bits, then the three channels. -/
theorem responseWord_encPayload (c : Rgb) : responseWord 0#4 (encPayload c) =
    0#8 ++ BitVec.ofInt 8 c.r ++ BitVec.ofInt 8 c.g ++ BitVec.ofInt 8 c.b := by
  rw [responseWord, encPayload, rgb24]
  generalize BitVec.ofInt 8 c.r = r
  generalize BitVec.ofInt 8 c.g = g
  generalize BitVec.ofInt 8 c.b = b
  calc 0#4 ++ (0#4 ++ (r ++ g ++ b))
    _ = 0#8 ++ (r ++ g ++ b) := BitVec.append_assoc'
    _ = 0#8 ++ (r ++ g) ++ b := BitVec.append_assoc'
    _ = 0#8 ++ r ++ g ++ b := congrArg (· ++ b) BitVec.append_assoc'

/-- Settles O9: the checks of R63 in their order; a word that passes the first two is an ENC with IDXF in its low
byte. -/
theorem encFollowsItsRule : Obligations.EncFollowsItsRule := by
  intro s w rest hs hop
  by_cases hp : s.phase = .faulted
  · rw [if_pos hp, step_of_command hs]
    exact runWord_of_faulted w hp
  by_cases hw : WellFormed.wordIllegal w = true
  · rw [illegalWordFaults s w rest hs hw, if_neg hp, if_neg hp, if_pos hw]
  rw [if_neg hp, if_neg hw, step_of_command hs, runWord, decode_of_legal_enc hw hop]
  refine (exec_enc_of_not_faulted (s := withActions rest s) _ hp).trans (congrArg Host.Outcome.next ?_)
  by_cases h : (w.extractLsb' 0 8).toNat < 133
  · rw [dif_pos h, encBody_of_lt h]
    exact congrArg (afterAnswer s rest) (responseWord_encPayload _)
  · rw [dif_neg h, encBody_of_ge h]
    rfl

end Sys2Proof.Machine

/-! ## The function `encode` (40_encoder.md R64 to R72) -/

namespace Sys2Proof.Machine

/-- IDXDEC inverts `i = 19 * band + slot` (R64). -/
theorem encodeIndex_eq_outmux (t : Tables) {band : Band} {slot : Slot} {i : Index}
    (h : i.val = 19 * band.val + slot.val) : encodeIndex t i = outmux t band slot := by
  have hband : bandOf i = band := Fin.ext (by simp only [bandOf]; omega)
  have hslot : slotOf i = slot := Fin.ext (by simp only [slotOf]; omega)
  rw [encodeIndex, hband, hslot]

theorem outmux_succ (t : Tables) (band : Band) (a : HueSlot) : outmux t band a.succ = hueColour t band a :=
  outmux_hue t band (Nat.succ_ne_zero a.val)

/-- The selectors `code[5:4]`, `code[3:2]` and `code[1:0]` (R68) as numbers. -/
theorem selectorsOf_toNat (t : Tables) (a : HueSlot) :
    (selectorsOf t a).rsel.toNat = (t.hue a).toNat / 16 ∧ (selectorsOf t a).gsel.toNat = (t.hue a).toNat / 4 % 4 ∧
    (selectorsOf t a).bsel.toNat = (t.hue a).toNat % 4 := by
  have := (t.hue a).isLt
  simp only [selectorsOf, BitVec.extractLsb'_toNat, Nat.shiftRight_eq_div_pow, true_and]
  omega

/-- Settles O19: OUTMUX by the slot, and on the hue path the three lanes with their selectors read as numbers. -/
theorem encodeFollowsTheFormula : Obligations.EncodeFollowsTheFormula := by
  intro t band slot i hi
  rw [encodeIndex_eq_outmux t hi]
  refine ⟨fun h => outmux_gray t band h, fun a ha => ?_⟩
  obtain rfl : slot = a.succ := Fin.ext ha
  obtain ⟨hr, hg, hb⟩ := selectorsOf_toNat t a
  rw [outmux_succ]
  simp only [hueColour, lerp, hr, hg, hb]
  rfl

end Sys2Proof.Machine

/-! ## The gray ramp (40_encoder.md R77) -/

namespace Sys2Proof.Machine

/-- ENC with an index of the domain answers the index's colour, in every phase but FAULTED. -/
theorem exec_enc_index {s : State} (i : Index) (h : s.phase ≠ .faulted) :
    exec (.enc (BitVec.ofNat 8 i.val)) s = .next (respond 0#4 (encPayload (encodeIndex tables i)) s) := by
  have hi : (BitVec.ofNat 8 i.val).toNat = i.val := Nat.mod_eq_of_lt (by omega)
  rw [exec_enc_of_not_faulted _ h, encBody_of_lt (hi.trans_lt i.isLt)]
  simp only [hi]

/-- The index `19 * band` has slot 0, so its colour is gray, and a gray value fits its byte. -/
theorem exec_enc_gray {s : State} (band : Band) (h : s.phase ≠ .faulted) :
    ∃ x, exec (.enc (BitVec.ofNat 8 (19 * band.val))) s = .next { s with responses := s.responses ++ [x] } ∧
      ((x.extractLsb' 0 8).toNat : Int) = grayOf tables band := by
  refine ⟨_, exec_enc_index ⟨19 * band.val, by omega⟩ h, ?_⟩
  rw [responseWord_encPayload, BitVec.extractLsb'_append_eq_right, encodeIndex_eq_outmux (slot := 0) tables rfl,
    outmux_gray tables band rfl]
  simp [grayOf]

theorem grayOf_strictAnti : StrictAnti (grayOf tables) := by
  unfold StrictAnti
  decide

/-- Settles O22: the table by evaluation, and ENC's two answers are its entries. -/
theorem grayRampStrictlyDecreases : Obligations.GrayRampStrictlyDecreases := by
  refine ⟨by decide, fun s a b hp hab => ?_⟩
  obtain ⟨x, hx, hxa⟩ := exec_enc_gray a hp
  obtain ⟨y, hy, hyb⟩ := exec_enc_gray b hp
  have hlt : grayOf tables b < grayOf tables a := grayOf_strictAnti hab
  exact ⟨x, y, hx, hy, hxa, hyb, by omega⟩

end Sys2Proof.Machine

/-! ## The commands of the analyzer: their words, and the checks of R106 -/

namespace Sys2Proof

theorem exists_encode_of_legal {w : Word} (h : ¬ WellFormed.wordIllegal w = true) : ∃ i, w = encode i := by
  obtain ⟨i, hi⟩ := exists_decode_of_legal h
  exact ⟨i, decode_eq_ok_iff.1 hi⟩

theorem decode_of_legal_aclr {w : Word} (h : ¬ WellFormed.wordIllegal w = true) (hop : cmdOp w = 2) :
    decode w = .ok .aclr := by
  obtain ⟨i, rfl⟩ := exists_encode_of_legal h
  cases i with
  | aclr => rfl
  | enc | acmp | afin | rds => simp [encode] at hop

theorem decode_of_legal_afin {w : Word} (h : ¬ WellFormed.wordIllegal w = true) (hop : cmdOp w = 4) :
    decode w = .ok .afin := by
  obtain ⟨i, rfl⟩ := exists_encode_of_legal h
  cases i with
  | afin => rfl
  | enc | aclr | acmp | rds => simp [encode] at hop

theorem decode_of_legal_rds {w : Word} (h : ¬ WellFormed.wordIllegal w = true) (hop : cmdOp w = 5) :
    decode w = .ok (.rds (selOfBits (w.extractLsb' 0 2))) := by
  obtain ⟨i, rfl⟩ := exists_encode_of_legal h
  cases i with
  | rds sel => rw [decode_encode, encode_rds, BitVec.extractLsb'_append_eq_right, selOfBits_selBits]
  | enc | aclr | acmp | afin => simp [encode] at hop

end Sys2Proof

namespace Sys2Proof.Machine

/-- The first two checks of R106 on a word, `t` being the answer of the command it names where it passes them. -/
theorem step_of_checks {s t : State} {w : Word} {rest : List HostAction} {i : Instr}
    (hs : s.actions = .command w :: rest) (hd : ¬ WellFormed.wordIllegal w = true → decode w = .ok i)
    (ht : s.phase ≠ .faulted → exec i (withActions rest s) = .next t) :
    step s = .next
      (if s.phase = .faulted then refuse (withActions rest s)
       else if WellFormed.wordIllegal w = true then raiseFault .illegalOperation (withActions rest s)
       else t) := by
  by_cases hp : s.phase = .faulted
  · rw [if_pos hp, step_of_command hs]
    exact runWord_of_faulted w hp
  rw [if_neg hp, step_of_command hs]
  by_cases hw : WellFormed.wordIllegal w = true
  · rw [if_pos hw, runWord_of_wordIllegal hw]
    exact perform_of_illegal hp List.not_mem_nil
  · rw [if_neg hw, runWord, hd hw]
    exact ht hp

/-- The third check of R106, for a command that is legal in one phase `p` only. -/
theorem exec_of_one_legal_phase {i : Instr} {p : Phase} {s : State} (hl : legalPhases i = [p])
    (h : s.phase ≠ .faulted) :
    exec i s = .next (if s.phase ≠ p then raiseFault .illegalOperation s else bodyOf i s) := by
  rw [exec_eq_perform, hl]
  by_cases hp : s.phase = p
  · rw [if_neg (not_not.2 hp), perform_of_legal h (List.mem_singleton.2 hp)]
  · rw [if_pos hp, perform_of_illegal h (mt List.mem_singleton.1 hp)]

/-- ACLR is legal in every phase but FAULTED (R82). -/
theorem exec_aclr_of_not_faulted {s : State} (h : s.phase ≠ .faulted) : exec .aclr s = .next (aclrBody s) := by
  refine (exec_eq_perform _ s).trans (perform_of_legal h ?_)
  change s.phase ∈ [.idle, .run, .done]
  cases hp : s.phase with
  | idle | run | done => decide
  | faulted => exact absurd hp h

/-- AFIN's length check (R86), on IDX as the rule writes it. -/
theorem afinBody_eq (s : State) : afinBody s =
    if s.idx ≠ 133 then raiseFault .inputShapeError s else respond 0#4 0#28 { s with phase := .done } := by
  by_cases h : s.idx = 133
  · rw [if_neg (not_not.2 h), afinBody_of_full (congrArg BitVec.toNat h)]
  · rw [if_pos h, afinBody_of_short fun hn => h (BitVec.eq_of_toNat_eq hn)]

/-- A register of at most 28 bits, zero-extended, is the number in it (R54). -/
theorem responseWord_setWidth {n : Nat} (x : BitVec n) (hn : n ≤ 28) :
    responseWord 0#4 (x.setWidth 28) = BitVec.ofNat 32 x.toNat := by
  have hx : x.toNat < 2 ^ 28 := x.isLt.trans_le (Nat.pow_le_pow_right two_pos hn)
  apply BitVec.eq_of_toNat_eq
  simp only [responseWord, BitVec.toNat_append, BitVec.toNat_ofNat, BitVec.toNat_setWidth, Nat.zero_mod,
    Nat.zero_shiftLeft, Nat.zero_or]
  omega

/-- The response of RDS by the two bits of SEL (R51, R54). -/
theorem responseWord_rdsPayload (b : BitVec 2) (s : State) : responseWord 0#4 (rdsPayload (selOfBits b) s) =
    if b = 0 then BitVec.ofNat 32 s.sumabs.toNat
    else if b = 1 then 0#4 ++ s.maxe.signExtend 28
    else if b = 2 then 0#4 ++ s.mine.signExtend 28
    else BitVec.ofNat 32 s.nz.toNat := by
  rw [selOfBits]
  split_ifs
  · exact responseWord_setWidth s.sumabs (by decide)
  · rfl
  · rfl
  · exact responseWord_setWidth s.nz (by decide)

end Sys2Proof.Machine

/-! ## The commands ACLR, AFIN and RDS (41_analyzer.md R82, R86, R87) -/

namespace Sys2Proof.Machine

open Sys2Proof.Safety

/-- Settles O10: a word that passes the first two checks is ACLR, legal in every phase left. -/
theorem aclrFollowsItsRule : Obligations.AclrFollowsItsRule := by
  intro s w rest hs hop
  exact step_of_checks hs (decode_of_legal_aclr · hop) (exec_aclr_of_not_faulted (s := withActions rest s))

/-- Settles O12: the phase check of AFIN, then its length check. -/
theorem afinFollowsItsRule : Obligations.AfinFollowsItsRule := by
  intro s w rest hs hop
  refine (step_of_checks hs (decode_of_legal_afin · hop)
    (exec_of_one_legal_phase (s := withActions rest s) rfl)).trans ?_
  rw [bodyOf, afinBody_eq]
  rfl

/-- Settles O13: the phase check of RDS, then the response word by SEL; nothing else is written. -/
theorem rdsFollowsItsRule : Obligations.RdsFollowsItsRule := by
  intro s w rest hs hop
  refine (step_of_checks hs (decode_of_legal_rds · hop)
    (exec_of_one_legal_phase (s := withActions rest s) rfl)).trans ?_
  have hbody : bodyOf (.rds (selOfBits (w.extractLsb' 0 2))) (withActions rest s) =
      afterAnswer s rest (responseWord 0#4 (rdsPayload (selOfBits (w.extractLsb' 0 2)) s)) := by
    cases selOfBits (w.extractLsb' 0 2) <;> rfl
  rw [hbody, responseWord_rdsPayload]
  simp only [apply_ite (afterAnswer s rest)]
  rfl

end Sys2Proof.Machine

/-! ## Entering FAULTED and staying there (60_exceptions.md R108 to R110) -/

namespace Sys2Proof.Machine

open Sys2Proof.Safety

/-- A legal command raises a fault, as its whole effect, or ends in another phase than FAULTED: R106 puts the operand
and count checks before every write. -/
theorem bodyOf_raises_or_completes (i : Instr) {s : State} (hp : s.phase ≠ .faulted) :
    (∃ c, bodyOf i s = raiseFault c s) ∨ (bodyOf i s).phase ≠ .faulted := by
  cases i with
  | enc idxf =>
    by_cases h : idxf.toNat < 133
    · exact .inr (by simpa only [bodyOf, encBody_of_lt h, respond_phase] using hp)
    · exact .inl ⟨.domainViolation, encBody_of_ge h s⟩
  | aclr => exact .inr nofun
  | acmp rr rg rb =>
    by_cases h : s.idx.toNat < 133
    · exact .inr (by simpa only [bodyOf, acmpBody_of_lt h, respond_phase, accumulateEntry_phase] using hp)
    · exact .inl ⟨.inputShapeError, acmpBody_of_ge h _⟩
  | afin =>
    by_cases h : s.idx.toNat = 133
    · exact .inr (by simp [bodyOf, afinBody_of_full h])
    · exact .inl ⟨.inputShapeError, afinBody_of_short h⟩
  | rds sel => exact .inr hp

/-- A command word that takes the block into FAULTED does so by raising a fault, and does nothing else. -/
theorem eq_raiseFault_of_runWord {w : Word} {s t : State} (h : runWord w s = .next t) (hp : s.phase ≠ .faulted)
    (ht : t.phase = .faulted) : ∃ c, t = raiseFault c s := by
  rcases runWord_cases w s with ⟨hf, -⟩ | ⟨-, -, hr⟩ | ⟨_, -, -, -, hr⟩ | ⟨i, -, -, -, hr⟩
  · exact absurd hf hp
  · exact ⟨.illegalOperation, Host.Outcome.next.inj (h.symm.trans hr)⟩
  · exact ⟨.illegalOperation, Host.Outcome.next.inj (h.symm.trans hr)⟩
  · obtain rfl : t = bodyOf i s := Host.Outcome.next.inj (h.symm.trans hr)
    exact (bodyOf_raises_or_completes i hp).resolve_right (not_not.2 ht)

/-- Settles O33: the word is run on the state with the action taken, and raising a fault is the one way into
FAULTED. -/
theorem faultEntryIsPrecise : Obligations.FaultEntryIsPrecise := by
  intro s t w rest hs hstep hp ht
  rw [step_of_command hs] at hstep
  obtain ⟨c, rfl⟩ := eq_raiseFault_of_runWord (s := withActions rest s) hstep hp ht
  exact ⟨c, rfl⟩

/-- Settles O34: whatever the decoder says of the word, the check for FAULTED comes first and refuses it. -/
theorem faultedRefusesEveryWord : Obligations.FaultedRefusesEveryWord := by
  intro s w rest hs hp
  rw [step_of_command hs]
  exact runWord_of_faulted (s := withActions rest s) w hp

/-- Settles O35: of the three things a step can do, waiting and refusing a word keep PHASE and CAUSE. -/
theorem onlyResetLeavesFaulted : Obligations.OnlyResetLeavesFaulted := by
  intro s t hp hstep hchange
  rcases step_cases hstep with ⟨-, rfl⟩ | ⟨rest, hs, rfl⟩ | ⟨w, rest, hs, -⟩
  · simp [hp] at hchange
  · exact ⟨rest, hs, rfl⟩
  · obtain rfl := Host.Outcome.next.inj (hstep.symm.trans (faultedRefusesEveryWord s w rest hs hp))
    simp [afterAnswer, hp] at hchange

end Sys2Proof.Machine

/-! ## The table check and the RESET event (70_reset_and_hazards.md R119, R120) -/

namespace Sys2Proof.Machine

theorem tableCheck_iff (t : Tables) : tableCheck t = true ↔ ∀ b, (t.base b).toNat ≤ (t.top b).toNat := by
  simp only [tableCheck, List.all_eq_true, List.mem_finRange, forall_const, decide_eq_true_eq]

/-- The largest selector takes a channel to the far end of its interval, even if the end lies below the base (R70). -/
theorem lerp_three (v : Interval) : lerp v 3 = v.baseVal + v.delta := by
  have hthird : v.delta * 3 / 3 = v.delta := Int.mul_ediv_cancel v.delta (by decide)
  exact congrArg (v.baseVal + ·) hthird

/-- A hue whose red selector is 3 has TOP - 1 in its red channel, whatever BASE is (R69, R70). -/
theorem hueColour_r_of_rsel_three {t : Tables} {h : HueSlot} (hsel : (selectorsOf t h).rsel = 3) (band : Band) :
    (hueColour t band h).r = (t.top band).toNat - 1 := by
  calc (hueColour t band h).r = lerp (intervalOf t band) 3 := congrArg (lerp (intervalOf t band)) hsel
    _ = (intervalOf t band).topVal := by rw [lerp_three, intervalOf_topVal]

/-- The block's tables with one interval for all bands. -/
def tablesWithInterval (base : BitVec 8) (top : BitVec 9) : Tables :=
  { tables with base := fun _ => base, top := fun _ => top }

theorem tableCheck_tablesWithInterval {base : BitVec 8} {top : BitVec 9} (h : base.toNat ≤ top.toNat) :
    tableCheck (tablesWithInterval base top) = true := (tableCheck_iff _).2 fun _ => h

/-- Index 1 is slot 1 of band 0, whose HueCode has the red selector 3. -/
theorem encodeIndex_one_r_tablesWithInterval (base : BitVec 8) (top : BitVec 9) :
    (encodeIndex (tablesWithInterval base top) 1).r = top.toNat - 1 := by
  have hsel : (selectorsOf tables 0).rsel = 3 := by decide
  have hslot : encodeIndex (tablesWithInterval base top) 1 = hueColour (tablesWithInterval base top) 0 0 :=
    (encodeIndex_eq_outmux (band := 0) (slot := Fin.succ (0 : HueSlot)) _ rfl).trans (outmux_succ _ 0 0)
  rw [hslot]
  exact hueColour_r_of_rsel_three (t := tablesWithInterval base top) hsel 0

/-- Settles O39: TOP = 257 passes the check and gives the channel 256, the empty interval BASE = TOP = 0 passes it and
gives the channel -1. -/
theorem tableCheckComparesEveryBand : Obligations.TableCheckComparesEveryBand := by
  refine ⟨tableCheck_iff, tableCheck_tables, by decide, ?_, ?_⟩
  · refine ⟨tablesWithInterval 0 257, tableCheck_tablesWithInterval (by decide), 1, ?_⟩
    rw [encodeIndex_one_r_tablesWithInterval]
    decide
  · refine ⟨tablesWithInterval 0 0, tableCheck_tablesWithInterval (by decide), fun _ => Nat.zero_le 256, 1, ?_⟩
    rw [encodeIndex_one_r_tablesWithInterval]
    decide

theorem step_of_reset {s : State} {rest : List HostAction} (h : s.actions = .reset :: rest) :
    step s = .next (resetEvent (withActions rest s)) := by
  rw [step, takeAction_cons h]
  rfl

/-- Settles O38: the RESET event runs on the state from which it has been taken, of which it keeps the two ports
only. -/
theorem resetEventForgetsEverything : Obligations.ResetEventForgetsEverything :=
  ⟨tableCheck_tables, fun _ _ h => step_of_reset h⟩

end Sys2Proof.Machine

/-! ## The two round trips, and the map of the words (30_encoding.md R46 to R51, R59) -/

namespace Sys2Proof

/-- Settles O4: the decoder reads back every operand the encoder placed. -/
theorem decodeOfEncode : Obligations.DecodeOfEncode := decode_encode

/-- Settles O5: every bit of an accepted word is an operand bit or is checked. -/
theorem encodeOfDecode : Obligations.EncodeOfDecode := fun _ _ => encode_of_decode

/-- Settles O3: every command's word is selected by a row and every selected word is a command's; the decoder rejects
by the five conditions of R59 and by nothing else. -/
theorem decoderIsTotalAndExact : Obligations.DecoderIsTotalAndExact := by
  refine fun w => ⟨⟨fun ⟨i, hi⟩ => ?_, fun ⟨r, ⟨hr, hsel⟩, _⟩ => ?_⟩,
    fun ⟨e, he⟩ => wordIllegal_of_decode_error he, exists_decode_error_of_wordIllegal⟩
  · obtain ⟨r, hr, -, hsel⟩ := exists_row_selecting_encode i
    rw [encode_of_decode hi] at hsel
    exact ⟨r, ⟨hr, hsel⟩, fun r' ⟨hr', hsel'⟩ => opcodeRow_eq_of_selects hr' hr hsel' hsel⟩
  · obtain ⟨i, hi, -⟩ := exists_decode_of_selects hr hsel
    exact ⟨i, hi⟩

/-- Settles O6: each written-out word is the encoding of its command. -/
theorem writtenOutWordsDecode : Obligations.WrittenOutWordsDecode :=
  ⟨decode_encode (.enc 1), decode_encode .aclr, decode_encode (.acmp 0xFF 0xD4 0xBF), decode_encode .afin,
    decode_encode (.rds .mine)⟩

end Sys2Proof

/-! ## The assembler's lines (30_encoding.md R61) -/

namespace Sys2Proof

theorem encode_enc_toNat (x : BitVec 8) : (encode (.enc x)).toNat = 0x10000000 + x.toNat := by
  have harg : (0#16 ++ x).toNat = x.toNat := by
    rw [BitVec.toNat_append, BitVec.toNat_ofNat, Nat.zero_mod, Nat.zero_shiftLeft, Nat.zero_or]
  exact (formatC_toNat 1 (0#16 ++ x)).trans (congrArg (0x10000000 + ·) harg)

theorem colour_toNat (r g b : BitVec 8) : (r ++ g ++ b).toNat = 65536 * r.toNat + 256 * g.toNat + b.toNat := by
  rw [BitVec.toNat_append, BitVec.toNat_append, ← Nat.shiftLeft_add_eq_or_of_lt b.isLt,
    ← Nat.shiftLeft_add_eq_or_of_lt g.isLt]
  simp only [Nat.shiftLeft_eq]
  omega

theorem encode_acmp_toNat (r g b : BitVec 8) :
    (encode (.acmp r g b)).toNat = 0x30000000 + (65536 * r.toNat + 256 * g.toNat + b.toNat) :=
  (formatC_toNat 3 (r ++ g ++ b)).trans (congrArg (0x30000000 + ·) (colour_toNat r g b))

theorem encode_rds_toNat (sel : Sel) : (encode (.rds sel)).toNat = 0x50000000 + (selBits sel).toNat := by
  cases sel <;> rfl

end Sys2Proof

namespace Sys2Proof.Machine

theorem assemble_of_wellFormed {l : AsmLine} (h : l.wellFormed = true) : assemble l = some l.action := if_pos h

/-- A well-formed line whose number in R61 is that of a command's word assembles to that word. -/
theorem assemble_eq_command {l : AsmLine} {n : Nat} {i : Instr} (hl : l.wellFormed = true)
    (ha : l.action = .command (BitVec.ofNat 32 n)) (hn : (encode i).toNat = n) :
    ∃ w, assemble l = some (.command w) ∧ w.toNat = n ∧ decode w = .ok i := by
  refine ⟨encode i, ?_, hn, decode_encode i⟩
  rw [assemble_of_wellFormed hl, ha, ← hn, BitVec.ofNat_toNat, BitVec.setWidth_eq]

/-- Settles O7: the number R61 gives each line is the number of the command's word. -/
theorem assembledLinesDecode : Obligations.AssembledLinesDecode := by
  refine ⟨fun n hn => ?_, assemble_eq_command rfl rfl rfl, fun r g b => ?_, assemble_eq_command rfl rfl rfl,
    fun sel => ?_, fun w => ?_, rfl, fun n hn => ?_⟩
  · refine assemble_eq_command (decide_eq_true hn) rfl ?_
    rw [encode_enc_toNat, BitVec.toNat_ofNat, Nat.mod_eq_of_lt hn]
  · exact assemble_eq_command (decide_eq_true (by omega)) rfl (encode_acmp_toNat r g b)
  · exact assemble_eq_command rfl (by cases sel <;> rfl) (encode_rds_toNat sel)
  · rw [assemble_of_wellFormed (l := .word w.toNat) (decide_eq_true w.isLt), AsmLine.action, BitVec.ofNat_toNat,
      BitVec.setWidth_eq]
  · exact if_neg (by simpa [AsmLine.wellFormed] using hn)

end Sys2Proof.Machine

/-! ## Single commands, by their bodies (00_scope.md R6, 41_analyzer.md R82, R86) -/

namespace Sys2Proof.Machine

open Sys2Proof.Safety

/-- Settles O1: a command word is run on the state from which it has been taken, and the block waits for the first. -/
theorem stepRunsDecodedCommand : Obligations.StepRunsDecodedCommand := by
  refine ⟨fun s w rest i hs hd => ?_, fun s hs => ?_⟩
  · rw [step_of_command hs, runWord, hd]
  · rw [step, takeAction_nil hs]

/-- Settles O15: ACLR is legal in every phase but FAULTED, and what it writes it would write again. -/
theorem aclrCompletes : Obligations.AclrCompletes := fun _ hp =>
  ⟨_, exec_aclr_of_not_faulted hp, rfl, exec_aclr_of_not_faulted nofun⟩

/-- A command that is legal in one phase only has its own effect there. -/
theorem exec_of_phase {i : Instr} {p : Phase} {s : State} (hl : legalPhases i = [p]) (hp : s.phase = p)
    (hf : p ≠ .faulted) : exec i s = .next (bodyOf i s) := by
  rw [exec_of_one_legal_phase hl (hp ▸ hf), if_neg (not_not.2 hp)]

theorem exec_acmp_of_run {s : State} (hp : s.phase = .run) (rr rg rb : BitVec 8) :
    exec (.acmp rr rg rb) s = .next (acmpBody (rgbOfFields rr rg rb) s) := exec_of_phase rfl hp nofun

theorem exec_afin_of_run {s : State} (hp : s.phase = .run) : exec .afin s = .next (afinBody s) :=
  exec_of_phase rfl hp nofun

theorem exec_rds_of_done {s : State} (hp : s.phase = .done) (sel : Sel) :
    exec (.rds sel) s = .next (rdsBody sel s) := exec_of_phase rfl hp nofun

/-- Settles O17: in RUN with a full count neither check of AFIN fails. -/
theorem afinCompletes : Obligations.AfinCompletes := fun _ hp hi =>
  (exec_afin_of_run hp).trans (congrArg _ (afinBody_of_full (congrArg BitVec.toNat hi)))

/-- Settles O42: the block's tables pass the check, so reset ends in IDLE with the values R29 asks for there. -/
theorem resetMeetsTheInvariants : Obligations.ResetMeetsTheInvariants := by
  constructor <;> decide

/-- Settles O24: 19 * band + slot with slot below 19 is division with remainder. -/
theorem indexDecomposesInBase19 : Obligations.IndexDecomposesInBase19 := by
  refine fun i => ⟨(Nat.div_add_mod i.val 19).symm, fun band slot h => ⟨Fin.ext ?_, Fin.ext ?_⟩⟩
  · simp only [bandOf]
    omega
  · simp only [slotOf]
    omega

end Sys2Proof.Machine

/-! ## The channel values of the encoder (40_encoder.md R66 to R76) -/

namespace Sys2Proof.Machine

open Sys2Proof.Safety

theorem lerp_zero (v : Interval) : lerp v 0 = v.baseVal := by simp [lerp]

theorem lerp_mono {v : Interval} (h : 0 ≤ v.delta) {c d : BitVec 2} (hcd : c.toNat ≤ d.toNat) :
    lerp v c ≤ lerp v d := by
  have hm : v.delta * c.toNat ≤ v.delta * d.toNat := Int.mul_le_mul_of_nonneg_left (Int.ofNat_le.2 hcd) h
  exact Int.add_le_add_left (Int.ediv_le_ediv (by decide) hm) _

/-- Settles O23: the two ends of the interval, and the order between them. -/
theorem selectorsStepFromBaseToTop : Obligations.SelectorsStepFromBaseToTop := fun t band =>
  ⟨lerp_zero _, (lerp_three _).trans (intervalOf_topVal t band).symm, fun h _ _ hcd => lerp_mono h hcd⟩

/-- All three channels are byte values (R73). -/
def Rgb.InBytes (c : Rgb) : Prop := (0 ≤ c.r ∧ c.r ≤ 255) ∧ (0 ≤ c.g ∧ c.g ≤ 255) ∧ (0 ≤ c.b ∧ c.b ≤ 255)

/-- The interval of a band that passes the table check and has its TOP in 1..256 lies in 0..255 (R69, R73). -/
theorem intervalOf_bounds {t : Tables} {band : Band} (hle : (t.base band).toNat ≤ (t.top band).toNat)
    (hpos : 1 ≤ (t.top band).toNat) (htop : (t.top band).toNat ≤ 256) :
    0 ≤ (intervalOf t band).baseVal ∧ 0 ≤ (intervalOf t band).delta ∧
    (intervalOf t band).baseVal + (intervalOf t band).delta ≤ 255 := by
  simp only [intervalOf]
  omega

theorem lerp_mem_bytes {v : Interval} (hbase : 0 ≤ v.baseVal) (hdelta : 0 ≤ v.delta)
    (htop : v.baseVal + v.delta ≤ 255) (c : BitVec 2) : 0 ≤ lerp v c ∧ lerp v c ≤ 255 :=
  ⟨hbase.trans (base_le_lerp v c hdelta), (lerp_le_top v c hdelta).trans htop⟩

theorem grayOf_mem_bytes (t : Tables) (band : Band) : 0 ≤ grayOf t band ∧ grayOf t band ≤ 255 := by
  have := (t.gray band).isLt
  simp only [grayOf]
  omega

theorem encodeIndex_inBytes {t : Tables} (hcheck : tableCheck t = true)
    (htop : ∀ b, 1 ≤ (t.top b).toNat ∧ (t.top b).toNat ≤ 256) (i : Index) : (encodeIndex t i).InBytes := by
  obtain ⟨hbase, hdelta, hend⟩ :=
    intervalOf_bounds ((tableCheck_iff t).1 hcheck (bandOf i)) (htop (bandOf i)).1 (htop (bandOf i)).2
  rw [encodeIndex]
  by_cases h : (slotOf i).val = 0
  · rw [outmux_gray t _ h]
    exact ⟨grayOf_mem_bytes t _, grayOf_mem_bytes t _, grayOf_mem_bytes t _⟩
  · rw [outmux_hue t _ h]
    exact ⟨lerp_mem_bytes hbase hdelta hend _, lerp_mem_bytes hbase hdelta hend _, lerp_mem_bytes hbase hdelta hend _⟩

theorem top_tables_bounds : ∀ b, 1 ≤ (tables.top b).toNat ∧ (tables.top b).toNat ≤ 256 := by decide

/-- Settles O20: the gray path reads a byte, and the hue path stays between the ends of its interval. -/
theorem channelsStayInRange : Obligations.ChannelsStayInRange :=
  ⟨fun _ hcheck htop i => encodeIndex_inBytes hcheck htop i, tableCheck_tables, top_tables_bounds⟩

/-- The block's own colours. -/
theorem encodeIndex_tables_inBytes (i : Index) : (encodeIndex tables i).InBytes :=
  encodeIndex_inBytes tableCheck_tables top_tables_bounds i

/-- The ramp of R66, rounded, in integers: rounding is the floor of a half more. -/
theorem round_ramp (n : Int) : round ((255 / 7 : ℚ) * n) = (510 * n + 7) / 14 := by
  have hfrac : (255 / 7 : ℚ) * n + 1 / 2 = ((510 * n + 7 : Int) : ℚ) / (14 : ℕ) := by
    push_cast
    ring
  rw [round_eq, hfrac, Rat.floor_intCast_div_natCast]
  rfl

/-- Settles O21: the stored values by evaluation of the all-integer form, which is the rounded ramp. -/
theorem grayTableIsTheRoundedRamp : Obligations.GrayTableIsTheRoundedRamp := by
  have hstored : ∀ band : Band, grayOf tables band = (510 * (7 - (band.val : Int)) + 7) / 14 := by decide
  refine fun band => ⟨?_, hstored band⟩
  have hramp := round_ramp (7 - (band.val : Int))
  push_cast at hramp
  rw [hramp, hstored]

/-! ### Achromatic colours (R76) -/

/-- In an interval of at least three steps different selectors give different values. -/
theorem lerp_injective {v : Interval} (h : 3 ≤ v.delta) : Function.Injective (lerp v) := by
  intro c d hcd
  have hstep (a b : Nat) (hab : a < b) : v.delta * a / 3 < v.delta * b / 3 := by
    have hm : v.delta * (a + 1) ≤ v.delta * b := Int.mul_le_mul_of_nonneg_left (by omega) (by omega)
    rw [mul_add, mul_one] at hm
    omega
  simp only [lerp] at hcd
  apply BitVec.eq_of_toNat_eq
  rcases Nat.lt_trichotomy c.toNat d.toNat with hlt | heq | hgt
  · have := hstep _ _ hlt
    omega
  · exact heq
  · have := hstep _ _ hgt
    omega

theorem three_le_delta_tables : ∀ band : Band, 3 ≤ (intervalOf tables band).delta := by decide

theorem selectorsOf_tables_not_all_equal : ∀ a : HueSlot,
    ¬ ((selectorsOf tables a).rsel = (selectorsOf tables a).gsel ∧
      (selectorsOf tables a).gsel = (selectorsOf tables a).bsel) := by decide

theorem hueColour_tables_not_achromatic (band : Band) (a : HueSlot) :
    ¬ ((hueColour tables band a).r = (hueColour tables band a).g ∧
      (hueColour tables band a).g = (hueColour tables band a).b) := by
  have hinj := lerp_injective (three_le_delta_tables band)
  exact fun ⟨hrg, hgb⟩ => selectorsOf_tables_not_all_equal a ⟨hinj hrg, hinj hgb⟩

/-- Slot 0 is the gray path; on the hue path no code has three equal selectors. -/
theorem encodeIndex_tables_achromatic_iff (i : Index) :
    ((encodeIndex tables i).r = (encodeIndex tables i).g ∧ (encodeIndex tables i).g = (encodeIndex tables i).b) ↔
      i.val % 19 = 0 := by
  change _ ↔ (slotOf i).val = 0
  rw [encodeIndex]
  by_cases h : (slotOf i).val = 0
  · simp [outmux_gray tables _ h, h]
  · rw [outmux_hue tables _ h]
    exact iff_of_false (hueColour_tables_not_achromatic _ _) h

/-! ### The colour in the response of ENC (R54, R57) -/

theorem ofInt_byte_toNat {x : Int} (h : 0 ≤ x ∧ x ≤ 255) : ((BitVec.ofInt 8 x).toNat : Int) = x := by
  rw [BitVec.toNat_ofInt]
  omega

theorem responseWord_encPayload_eq (c : Rgb) : responseWord 0#4 (encPayload c) = 0#8 ++ rgb24 c :=
  BitVec.append_assoc' (x₁ := 0#4) (x₂ := 0#4) (x₃ := rgb24 c)

/-- Settles O14: the response holds the three channels in a byte each, and every channel fits its byte. -/
theorem encCompletes : Obligations.EncCompletes := by
  intro s idxf h hp
  obtain ⟨hr, hg, hb⟩ := encodeIndex_tables_inBytes ⟨idxf.toNat, h⟩
  refine ⟨responseWord 0#4 (encPayload (encodeIndex tables ⟨idxf.toNat, h⟩)), ?_, respStatus_responseWord _ _, ?_⟩
  · rw [exec_enc_of_not_faulted idxf hp, encBody_of_lt h]
    rfl
  generalize encodeIndex tables ⟨idxf.toNat, h⟩ = c at hr hg hb ⊢
  have hzero : (0#8 ++ rgb24 c).extractLsb' 24 4 = 0#4 :=
    (BitVec.extractLsb'_append_eq_of_le (by decide)).trans (by decide)
  have hlow (k : Nat) (hk : k + 8 ≤ 24) : (0#8 ++ rgb24 c).extractLsb' k 8 = (rgb24 c).extractLsb' k 8 :=
    BitVec.extractLsb'_append_eq_of_add_le hk
  obtain ⟨hcr, hcg, hcb⟩ := colour_channels (BitVec.ofInt 8 c.r) (BitVec.ofInt 8 c.g) (BitVec.ofInt 8 c.b)
  rw [responseWord_encPayload_eq, hlow 16 (by decide), hlow 8 (by decide), hlow 0 (by decide), rgb24, hcr, hcg, hcb]
  exact ⟨hzero, ofInt_byte_toNat hr, ofInt_byte_toNat hg, ofInt_byte_toNat hb⟩

/-- Settles O25: the three bytes are the channels, so they are equal exactly where the channels are. -/
theorem achromaticExactlyOnGray : Obligations.AchromaticExactlyOnGray := by
  intro s idxf h hp
  obtain ⟨x, hx, -, -, hr, hg, hb⟩ := encCompletes s idxf h hp
  refine ⟨x, hx, ?_⟩
  rw [← encodeIndex_tables_achromatic_iff ⟨idxf.toNat, h⟩, ← hr, ← hg, ← hb]
  simp only [Int.ofNat_inj, BitVec.toNat_inj]

end Sys2Proof.Machine

/-! ## Folding errors into the accumulators (20_memory.md R43, 41_analyzer.md R85) -/

namespace Sys2Proof.Machine

/-- Every error lies in the range of a difference of two bytes (R84). -/
def ErrorsInRange (l : List Int) : Prop := ∀ e ∈ l, -255 ≤ e ∧ e ≤ 255

theorem errorsInRange_cons {e : Int} {l : List Int} :
    ErrorsInRange (e :: l) ↔ (-255 ≤ e ∧ e ≤ 255) ∧ ErrorsInRange l := List.forall_mem_cons

theorem toInt_ofInt_nine {x : Int} (h : -256 ≤ x) (h' : x ≤ 255) : (BitVec.ofInt 9 x).toInt = x :=
  BitVec.toInt_ofInt_eq_self (by decide) h (by omega)

theorem toInt_nine_bounds (x : BitVec 9) : -256 ≤ x.toInt ∧ x.toInt ≤ 255 := by
  have hlow := x.le_toInt
  have hhigh := x.toInt_lt
  omega

/-- Nine bits hold every error, so the signed extremes never wrap, whatever the registers held before. -/
theorem accumulate_extremes_toInt {e : Int} (h : -255 ≤ e ∧ e ≤ 255) (s : State) :
    (accumulate e s).maxe.toInt = max s.maxe.toInt e ∧ (accumulate e s).mine.toInt = min s.mine.toInt e := by
  have hmax := toInt_nine_bounds s.maxe
  have hmin := toInt_nine_bounds s.mine
  exact ⟨toInt_ofInt_nine (by omega) (by omega), toInt_ofInt_nine (by omega) (by omega)⟩

/-- The errors of a list folded into the accumulators, first one first. -/
def foldErrors (l : List Int) (s : State) : State := l.foldl (fun a e => accumulate e a) s

theorem foldErrors_nil (s : State) : foldErrors [] s = s := rfl

theorem foldErrors_cons (e : Int) (l : List Int) (s : State) :
    foldErrors (e :: l) s = foldErrors l (accumulate e s) := rfl

theorem foldErrors_append (l l' : List Int) (s : State) :
    foldErrors (l ++ l') s = foldErrors l' (foldErrors l s) := List.foldl_append

/-- The fold in closed form: sums and counts at the registers' widths, and the extremes. -/
theorem foldErrors_eq {l : List Int} (hl : ErrorsInRange l) (s : State) : foldErrors l s =
    { s with
      sumabs := s.sumabs + BitVec.ofNat 17 (l.map Int.natAbs).sum
      maxe := BitVec.ofInt 9 (l.foldl max s.maxe.toInt)
      mine := BitVec.ofInt 9 (l.foldl min s.mine.toInt)
      nz := s.nz + BitVec.ofNat 9 (l.countP (· ≠ 0)) } := by
  induction l generalizing s with
  | nil => simp [foldErrors_nil]
  | cons e l ih =>
    obtain ⟨he, hl⟩ := errorsInRange_cons.1 hl
    obtain ⟨hmax, hmin⟩ := accumulate_extremes_toInt he s
    have hsum : s.sumabs + BitVec.ofNat 17 e.natAbs + BitVec.ofNat 17 (l.map Int.natAbs).sum =
        s.sumabs + BitVec.ofNat 17 ((e :: l).map Int.natAbs).sum := by
      rw [List.map_cons, List.sum_cons, BitVec.ofNat_add, BitVec.add_assoc]
    have hnz : (accumulate e s).nz + BitVec.ofNat 9 (l.countP (· ≠ 0)) =
        s.nz + BitVec.ofNat 9 ((e :: l).countP (· ≠ 0)) := by
      by_cases h : e = 0
      · simp [h]
      · simp [h, BitVec.ofNat_add, BitVec.add_assoc, BitVec.add_comm]
    rw [foldErrors_cons, ih hl, hmax, hmin, hnz, accumulate_sumabs, hsum]
    rfl

/-- Settles O28: the sum, the count and the two extremes of a list do not depend on its order. -/
theorem accumulationOrderIrrelevant : Obligations.AccumulationOrderIrrelevant := by
  intro l l' s hperm hl
  change foldErrors l s = foldErrors l' s
  have hl' : ErrorsInRange l' := fun e he => hl e (hperm.mem_iff.2 he)
  rw [foldErrors_eq hl, foldErrors_eq hl', (hperm.map Int.natAbs).sum_eq, hperm.countP_eq, hperm.foldl_eq,
    hperm.foldl_eq]

theorem foldErrors_extremes_toInt {l : List Int} (hl : ErrorsInRange l) (s : State) :
    (foldErrors l s).maxe.toInt = l.foldl max s.maxe.toInt ∧
    (foldErrors l s).mine.toInt = l.foldl min s.mine.toInt := by
  induction l generalizing s with
  | nil => exact ⟨rfl, rfl⟩
  | cons e l ih =>
    obtain ⟨he, hl⟩ := errorsInRange_cons.1 hl
    obtain ⟨hmax, hmin⟩ := accumulate_extremes_toInt he s
    rw [foldErrors_cons, List.foldl_cons, List.foldl_cons, ← hmax, ← hmin]
    exact ih hl _

theorem sum_natAbs_le {l : List Int} (hl : ErrorsInRange l) : (l.map Int.natAbs).sum ≤ 255 * l.length := by
  have hle : ∀ n ∈ l.map Int.natAbs, n ≤ 255 := by
    intro n hn
    obtain ⟨e, he, rfl⟩ := List.mem_map.1 hn
    have := hl e he
    omega
  have hsum := List.sum_le_card_nsmul _ 255 hle
  rwa [List.length_map, smul_eq_mul, mul_comm] at hsum

/-- SUMABS has room for the whole list, so it holds the exact sum (R17). -/
theorem foldErrors_sumabs_toNat {l : List Int} (hl : ErrorsInRange l) {s : State}
    (hroom : s.sumabs.toNat + 255 * l.length < 2 ^ 17) :
    (foldErrors l s).sumabs.toNat = s.sumabs.toNat + (l.map Int.natAbs).sum := by
  have hsum := sum_natAbs_le hl
  rw [foldErrors_eq hl, BitVec.toNat_add, BitVec.toNat_ofNat]
  omega

/-- NZ has room for the whole list, so it holds the exact count (R20). -/
theorem foldErrors_nz_toNat {l : List Int} (hl : ErrorsInRange l) {s : State}
    (hroom : s.nz.toNat + l.length < 2 ^ 9) :
    (foldErrors l s).nz.toNat = s.nz.toNat + l.countP (· ≠ 0) := by
  have hcount : l.countP (· ≠ 0) ≤ l.length := List.countP_le_length
  rw [foldErrors_eq hl, BitVec.toNat_add, BitVec.toNat_ofNat]
  omega

end Sys2Proof.Machine

/-! ## The command ACMP (41_analyzer.md R83, R84) -/

namespace Sys2Proof.Machine

open Sys2Proof.Safety

/-- The three channels in the order in which they are folded (R44). -/
def Rgb.channels (c : Rgb) : List Int := [c.r, c.g, c.b]

theorem accumulateEntry_eq_foldErrors (e : Rgb) (s : State) : accumulateEntry e s = foldErrors e.channels s := rfl

theorem rgbOfFields_inBytes (rr rg rb : BitVec 8) : (rgbOfFields rr rg rb).InBytes := by
  have := rr.isLt
  have := rg.isLt
  have := rb.isLt
  simp only [Rgb.InBytes, rgbOfFields]
  omega

/-- Two bytes differ by at most 255 (R84). -/
theorem errorsOf_inRange {c d : Rgb} (hc : c.InBytes) (hd : d.InBytes) : ErrorsInRange (errorsOf c d).channels := by
  obtain ⟨hcr, hcg, hcb⟩ := hc
  obtain ⟨hdr, hdg, hdb⟩ := hd
  simp only [ErrorsInRange, Rgb.channels, errorsOf, List.forall_mem_cons]
  refine ⟨by omega, by omega, by omega, nofun⟩

theorem entryErrors_inRange (i : Index) {d : Rgb} (hd : d.InBytes) : ErrorsInRange (entryErrors i d).channels :=
  errorsOf_inRange (encodeIndex_tables_inBytes i) hd

/-! ### The response of ACMP (30_encoding.md R58, R89) -/

theorem responseWord_acmpPayload_eq (e : Rgb) : responseWord 0#4 (acmpPayload e) = 0#5 ++ err27 e :=
  BitVec.append_assoc' (x₁ := 0#4) (x₂ := 0#1) (x₃ := err27 e)

/-- The OK response of ACMP: five zero bits, then the three errors. -/
theorem responseWord_acmpPayload (e : Rgb) : responseWord 0#4 (acmpPayload e) =
    0#5 ++ BitVec.ofInt 9 e.r ++ BitVec.ofInt 9 e.g ++ BitVec.ofInt 9 e.b := by
  rw [responseWord_acmpPayload_eq, err27]
  generalize BitVec.ofInt 9 e.r = r
  generalize BitVec.ofInt 9 e.g = g
  generalize BitVec.ofInt 9 e.b = b
  calc 0#5 ++ (r ++ g ++ b)
    _ = 0#5 ++ (r ++ g) ++ b := BitVec.append_assoc'
    _ = 0#5 ++ r ++ g ++ b := congrArg (· ++ b) BitVec.append_assoc'

/-- The three nine-bit fields of an error triple. -/
theorem err27_fields (e : Rgb) : (err27 e).extractLsb' 18 9 = BitVec.ofInt 9 e.r ∧
    (err27 e).extractLsb' 9 9 = BitVec.ofInt 9 e.g ∧ (err27 e).extractLsb' 0 9 = BitVec.ofInt 9 e.b := by
  refine ⟨?_, ?_, BitVec.extractLsb'_append_eq_right⟩
  · exact (BitVec.extractLsb'_append_eq_of_le (by decide)).trans BitVec.extractLsb'_append_eq_left
  · exact (BitVec.extractLsb'_append_eq_of_le (by decide)).trans BitVec.extractLsb'_append_eq_right

/-- The fields of the whole response word are those of its error triple. -/
theorem acmpResponse_fields (e : Rgb) :
    (responseWord 0#4 (acmpPayload e)).extractLsb' 18 9 = BitVec.ofInt 9 e.r ∧
    (responseWord 0#4 (acmpPayload e)).extractLsb' 9 9 = BitVec.ofInt 9 e.g ∧
    (responseWord 0#4 (acmpPayload e)).extractLsb' 0 9 = BitVec.ofInt 9 e.b := by
  have hlow (k : Nat) (hk : k + 9 ≤ 27) : (0#5 ++ err27 e).extractLsb' k 9 = (err27 e).extractLsb' k 9 :=
    BitVec.extractLsb'_append_eq_of_add_le hk
  rw [responseWord_acmpPayload_eq, hlow 18 (by decide), hlow 9 (by decide), hlow 0 (by decide)]
  exact err27_fields e

theorem respErrors_eq (w : Word) : respErrors w =
    ⟨(w.extractLsb' 18 9).toInt, (w.extractLsb' 9 9).toInt, (w.extractLsb' 0 9).toInt⟩ := by
  have hpay (k : Nat) (hk : k + 9 ≤ 28) : (respPayload w).extractLsb' k 9 = w.extractLsb' k 9 :=
    BitVec.extractLsb'_extractLsb'_of_le hk
  rw [respErrors, hpay 18 (by decide), hpay 9 (by decide), hpay 0 (by decide)]

theorem respErrors_acmpResponse {e : Rgb} (h : ErrorsInRange e.channels) :
    respErrors (responseWord 0#4 (acmpPayload e)) = e := by
  obtain ⟨hr, hg, hb⟩ := acmpResponse_fields e
  simp only [ErrorsInRange, Rgb.channels, List.forall_mem_cons] at h
  obtain ⟨her, heg, heb, -⟩ := h
  rw [respErrors_eq, hr, hg, hb, toInt_ofInt_nine (by omega) (by omega), toInt_ofInt_nine (by omega) (by omega),
    toInt_ofInt_nine (by omega) (by omega)]

/-- The pattern of -256 is no error's (R58). -/
theorem ofInt_nine_ne_min {e : Int} (h : -255 ≤ e ∧ e ≤ 255) : BitVec.ofInt 9 e ≠ 0b100000000#9 := by
  intro heq
  have hmin : (BitVec.ofInt 9 e).toInt = -256 := congrArg BitVec.toInt heq
  rw [toInt_ofInt_nine (by omega) (by omega)] at hmin
  omega

/-- Settles O27: nine bits hold every error, and none is -256. -/
theorem errorTripleReadsBack : Obligations.ErrorTripleReadsBack := by
  intro s rr rg rb h hp
  have hrange := entryErrors_inRange ⟨s.idx.toNat, h⟩ (rgbOfFields_inBytes rr rg rb)
  refine ⟨_, responseWord 0#4 (acmpPayload (entryErrors ⟨s.idx.toNat, h⟩ (rgbOfFields rr rg rb))),
    exec_acmp_of_run hp rr rg rb, ?_, respStatus_responseWord _ _, respErrors_acmpResponse hrange, ?_⟩
  · rw [acmpBody_of_lt h]
    rfl
  obtain ⟨hr, hg, hb⟩ := acmpResponse_fields (entryErrors ⟨s.idx.toNat, h⟩ (rgbOfFields rr rg rb))
  simp only [ErrorsInRange, Rgb.channels, List.forall_mem_cons] at hrange
  obtain ⟨her, heg, heb, -⟩ := hrange
  rw [hr, hg, hb]
  exact ⟨ofInt_nine_ne_min her, ofInt_nine_ne_min heg, ofInt_nine_ne_min heb⟩

/-! ### The state after ACMP (R83) -/

/-- The whole effect of ACMP below 133 entries, `e` being the errors of the entry. -/
theorem acmpBody_eq {s : State} (h : s.idx.toNat < 133) {d e : Rgb} (hd : d.InBytes)
    (he : entryErrors ⟨s.idx.toNat, h⟩ d = e) : acmpBody d s =
    { s with
      sumabs := s.sumabs + BitVec.ofNat 17 (e.r.natAbs + e.g.natAbs + e.b.natAbs)
      maxe := BitVec.ofInt 9 (max (max (max s.maxe.toInt e.r) e.g) e.b)
      mine := BitVec.ofInt 9 (min (min (min s.mine.toInt e.r) e.g) e.b)
      nz := s.nz + BitVec.ofNat 9 ([e.r, e.g, e.b].countP (· ≠ 0))
      idx := s.idx + 1
      responses := s.responses ++ [0#5 ++ BitVec.ofInt 9 e.r ++ BitVec.ofInt 9 e.g ++ BitVec.ofInt 9 e.b] } := by
  have hrange : ErrorsInRange e.channels := he ▸ entryErrors_inRange _ hd
  have hsum : (e.channels.map Int.natAbs).sum = e.r.natAbs + e.g.natAbs + e.b.natAbs :=
    (Nat.add_assoc e.r.natAbs e.g.natAbs e.b.natAbs).symm
  rw [acmpBody_of_lt h, he, accumulateEntry_eq_foldErrors, foldErrors_eq hrange, hsum, ← responseWord_acmpPayload]
  rfl

/-- Settles O29: three zero errors add 0 to the sum and the count, and give the extremes a 0. -/
theorem equalReferenceHasNoError : Obligations.EqualReferenceHasNoError := by
  intro s rr rg rb h hp heq
  have hzero : entryErrors ⟨s.idx.toNat, h⟩ (rgbOfFields rr rg rb) = ⟨0, 0, 0⟩ := by
    simp [entryErrors, heq, errorsOf, rgbOfFields]
  rw [exec_acmp_of_run hp, acmpBody_eq h (rgbOfFields_inBytes rr rg rb) hzero]
  simp

end Sys2Proof.Machine

namespace Sys2Proof

theorem decode_of_legal_acmp {w : Word} (h : ¬ WellFormed.wordIllegal w = true) (hop : cmdOp w = 3) :
    decode w = .ok (.acmp (w.extractLsb' 16 8) (w.extractLsb' 8 8) (w.extractLsb' 0 8)) := by
  obtain ⟨i, hi⟩ := exists_decode_of_legal h
  have hopi : cmdOp (encode i) = 3 := encode_of_decode hi ▸ hop
  cases i with
  | acmp rr rg rb =>
    obtain ⟨-, hr, hg, hb⟩ := fields_of_decode_acmp hi
    rw [hi, hr, hg, hb]
  | enc | aclr | afin | rds => simp [encode] at hopi

end Sys2Proof

namespace Sys2Proof.Machine

open Sys2Proof.Safety

/-- Settles O11: the phase check of ACMP, then its count check, then the fold. -/
theorem acmpFollowsItsRule : Obligations.AcmpFollowsItsRule := by
  intro s w rest hs hop _
  refine (step_of_checks hs (decode_of_legal_acmp · hop)
    (exec_of_one_legal_phase (s := withActions rest s) rfl)).trans ?_
  rw [bodyOf]
  by_cases h : s.idx.toNat < 133
  · rw [dif_pos h, acmpBody_eq (s := withActions rest s) h (rgbOfFields_inBytes _ _ _) rfl]
    rfl
  · rw [dif_neg h, acmpBody_of_ge (s := withActions rest s) h]
    rfl

end Sys2Proof.Machine

/-! ## The invariants of the accumulators (10_state.md R29) -/

namespace Sys2Proof.Machine

open Sys2Proof.Safety

/-- What R29 says of the accumulators after `n` errors, on their values. -/
structure AccBounds (n nz sumabs : Nat) (maxe mine : Int) : Prop where
  nz_le : nz ≤ n
  nz_le_sumabs : nz ≤ sumabs
  sumabs_le : sumabs ≤ 255 * nz
  mine_ge : -255 ≤ mine
  maxe_ge : -255 ≤ maxe
  extremes : 1 ≤ n → mine ≤ maxe ∧ (nz = 0 ↔ mine = 0 ∧ maxe = 0) ∧ maxe.natAbs ≤ sumabs ∧ mine.natAbs ≤ sumabs
  empty : n = 0 → maxe = -255 ∧ mine = 255

/-- One more error keeps the bounds: a zero error moves the extremes to 0 at most, any other adds 1 to 255 to the
sum. -/
theorem AccBounds.fold {n nz sumabs : Nat} {maxe mine e : Int} (h : AccBounds n nz sumabs maxe mine)
    (he : -255 ≤ e ∧ e ≤ 255) :
    AccBounds (n + 1) (nz + if e = 0 then 0 else 1) (sumabs + e.natAbs) (max maxe e) (min mine e) := by
  obtain ⟨hnz, hle, hsum, hmine, hmaxe, hext, hempty⟩ := h
  rcases Nat.eq_zero_or_pos n with h0 | hpos
  · obtain ⟨rfl, rfl⟩ := hempty h0
    split_ifs <;> constructor <;> omega
  · obtain ⟨hord, hzero, hmax, hmin⟩ := hext hpos
    split_ifs <;> constructor <;> omega

/-- The accumulators of `s` meet R29 after `n` errors. -/
def AccInv (n : Nat) (s : State) : Prop :=
  AccBounds n s.nz.toNat s.sumabs.toNat s.maxe.toInt s.mine.toInt

theorem accInv_clearPass (s : State) : AccInv 0 (clearPass s) := by
  constructor <;> simp

/-- A pass folds 399 errors at most, for which SUMABS and NZ have room. -/
theorem accInv_room {n : Nat} {s : State} (h : AccInv n s) {k : Nat} (hn : n + k ≤ 399) :
    s.sumabs.toNat + 255 * k < 2 ^ 17 ∧ s.nz.toNat + k < 2 ^ 9 := by
  have hnz := h.nz_le
  have hsum := h.sumabs_le
  omega

theorem accInv_foldErrors {l : List Int} (hl : ErrorsInRange l) {n : Nat} {s : State} (h : AccInv n s)
    (hn : n + l.length ≤ 399) : AccInv (n + l.length) (foldErrors l s) := by
  induction l generalizing n s with
  | nil => exact h
  | cons e l ih =>
    obtain ⟨he, hl⟩ := errorsInRange_cons.1 hl
    have hone : ErrorsInRange [e] := errorsInRange_cons.2 ⟨he, nofun⟩
    rw [List.length_cons] at hn ⊢
    obtain ⟨hroom, hroom'⟩ := accInv_room h (k := [e].length) (by rw [List.length_singleton]; omega)
    have hfold : AccInv (n + 1) (foldErrors [e] s) := by
      rw [AccInv, foldErrors_sumabs_toNat hone hroom, foldErrors_nz_toNat hone hroom',
        (foldErrors_extremes_toInt hone s).1, (foldErrors_extremes_toInt hone s).2]
      simpa [List.countP_singleton] using AccBounds.fold h he
    rw [Nat.add_comm l.length, ← Nat.add_assoc]
    exact ih hl hfold (by omega)

theorem eq_zero_iff_toNat {w : Nat} (x : BitVec w) : x = 0 ↔ x.toNat = 0 := BitVec.toNat_inj.symm

/-- In a pass R29 bounds the accumulators after three errors for each entry. -/
theorem accInv_of_machineInv {s : State} (h : MachineInv s) (hp : InPass s) : AccInv (3 * s.idx.toNat) s := by
  obtain ⟨hnz, hle, hsum, hmine, -, hmaxe, -⟩ := h.counts hp
  refine ⟨hnz, hle, hsum, hmine, hmaxe, fun hn => ?_, fun hn => ?_⟩
  · obtain ⟨hord, -, hzero, hmax, hmin⟩ := h.extremes hp (by omega)
    exact ⟨hord, (eq_zero_iff_toNat _).symm.trans hzero, hmax, hmin⟩
  · have hidx : s.idx = 0 := (eq_zero_iff_toNat _).2 (by omega)
    rcases hp with hrun | hdone
    · exact h.empty hrun hidx
    · rw [(h.done hdone).1] at hidx
      exact absurd hidx (by decide)

/-- The invariants of R29 in an open or complete pass. -/
theorem machineInv_of_inPass {s : State} (hp : s.phase = .run ∨ s.phase = .done ∧ s.idx = 133)
    (hc : s.cause = none) (hidx : s.idx.toNat ≤ 133) (h : AccInv (3 * s.idx.toNat) s) : MachineInv s := by
  have hmine := toInt_nine_bounds s.mine
  have hmaxe := toInt_nine_bounds s.maxe
  refine ⟨hidx, fun hi => ?_, fun hd => ?_, ?_, fun _ => ?_, fun _ hn => ?_, fun _ hi => h.empty (by simp [hi])⟩
  · simp [hi] at hp
  · exact ⟨(hp.resolve_left (by simp [hd])).2, hc⟩
  · rcases hp with hrun | ⟨hdone, -⟩ <;> simp [*]
  · exact ⟨h.nz_le, h.nz_le_sumabs, h.sumabs_le, h.mine_ge, hmine.2, h.maxe_ge, hmaxe.2⟩
  · have hle := h.nz_le_sumabs
    have hsum := h.sumabs_le
    obtain ⟨hord, hzero, hmax, hmin⟩ := h.extremes (by omega)
    rw [eq_zero_iff_toNat, eq_zero_iff_toNat]
    exact ⟨hord, by omega, hzero, hmax, hmin⟩

theorem machineInv_of_faulted {s : State} (hp : s.phase = .faulted) (hc : s.cause ≠ none)
    (hidx : s.idx.toNat ≤ 133) : MachineInv s := by
  constructor <;> simp [InPass, hp, hc, hidx]

theorem respond_sameRegisters (st : BitVec 4) (pay : BitVec 28) (s : State) : SameRegisters s (respond st pay s) :=
  ⟨rfl, rfl, rfl, rfl, rfl, rfl, rfl⟩

theorem withActions_sameRegisters (as : List HostAction) (s : State) : SameRegisters s (withActions as s) :=
  ⟨rfl, rfl, rfl, rfl, rfl, rfl, rfl⟩

theorem resetEvent_sameRegisters (s : State) : SameRegisters State.reset (resetEvent s) :=
  ⟨rfl, rfl, rfl, rfl, rfl, rfl, rfl⟩

/-- R29 speaks of the seven registers only. -/
theorem machineInv_congr {s t : State} (h : MachineInv s) (hst : SameRegisters s t) : MachineInv t := by
  rw [eq_withPorts_of_sameRegisters hst]
  exact ⟨h.idx_le, h.idle, h.done, h.faulted, h.counts, h.extremes, h.empty⟩

/-! ### Every step keeps them -/

theorem raiseFault_machineInv (c : FaultCause) {s : State} (h : MachineInv s) : MachineInv (raiseFault c s) :=
  machineInv_of_faulted rfl nofun h.idx_le

theorem aclrBody_machineInv {s : State} (hc : s.cause = none) : MachineInv (aclrBody s) :=
  machineInv_of_inPass (.inl rfl) hc (Nat.zero_le _) (accInv_clearPass s)

theorem idx_add_one_toNat {s : State} (h : s.idx.toNat < 133) : (s.idx + 1).toNat = s.idx.toNat + 1 :=
  BitVec.toNat_add_of_lt (Nat.lt_of_le_of_lt h (by decide))

theorem acmpBody_machineInv {s : State} (h : MachineInv s) (hp : s.phase = .run) (hc : s.cause = none)
    {d : Rgb} (hd : d.InBytes) : MachineInv (acmpBody d s) := by
  by_cases hi : s.idx.toNat < 133
  · have hfold : AccInv (3 * s.idx.toNat + 3) (foldErrors (entryErrors ⟨s.idx.toNat, hi⟩ d).channels s) :=
      accInv_foldErrors (entryErrors_inRange _ hd) (accInv_of_machineInv h (.inl hp))
        (by simp only [Rgb.channels, List.length_cons, List.length_nil]; omega)
    rw [acmpBody_of_lt hi]
    refine machineInv_of_inPass (.inl hp) hc ?_ ?_
    · exact (idx_add_one_toNat hi).trans_le hi
    · change AccBounds (3 * (s.idx + 1).toNat) _ _ _ _
      rw [idx_add_one_toNat hi]
      exact hfold
  · rw [acmpBody_of_ge hi]
    exact raiseFault_machineInv _ h

theorem afinBody_machineInv {s : State} (h : MachineInv s) (hp : s.phase = .run) (hc : s.cause = none) :
    MachineInv (afinBody s) := by
  by_cases hi : s.idx.toNat = 133
  · have hacc : AccInv (3 * s.idx.toNat) s := accInv_of_machineInv h (.inl hp)
    rw [afinBody_of_full hi]
    exact machineInv_of_inPass (.inr ⟨rfl, BitVec.eq_of_toNat_eq hi⟩) hc h.idx_le hacc
  · rw [afinBody_of_short hi]
    exact raiseFault_machineInv _ h

theorem bodyOf_machineInv {i : Instr} {s : State} (h : MachineInv s) (hp : s.phase ≠ .faulted)
    (hl : s.phase ∈ legalPhases i) : MachineInv (bodyOf i s) := by
  have hc : s.cause = none := cause_eq_none_of_not_faulted h.faulted hp
  cases i with
  | enc idxf =>
    change MachineInv (encBody idxf s)
    by_cases hi : idxf.toNat < 133
    · rw [encBody_of_lt hi]
      exact machineInv_congr h (respond_sameRegisters _ _ s)
    · rw [encBody_of_ge hi]
      exact raiseFault_machineInv _ h
  | aclr => exact aclrBody_machineInv hc
  | acmp rr rg rb => exact acmpBody_machineInv h (List.mem_singleton.1 hl) hc (rgbOfFields_inBytes rr rg rb)
  | afin => exact afinBody_machineInv h (List.mem_singleton.1 hl) hc
  | rds sel => exact machineInv_congr h (respond_sameRegisters _ _ s)

theorem runWord_machineInv {w : Word} {s t : State} (h : MachineInv s) (hrun : runWord w s = .next t) :
    MachineInv t := by
  rcases runWord_cases w s with ⟨-, hr⟩ | ⟨-, -, hr⟩ | ⟨_, -, -, -, hr⟩ | ⟨i, hp, -, hl, hr⟩ <;>
    obtain rfl := Host.Outcome.next.inj (hrun.symm.trans hr)
  · exact machineInv_congr h (respond_sameRegisters _ _ s)
  · exact raiseFault_machineInv _ h
  · exact raiseFault_machineInv _ h
  · exact bodyOf_machineInv h hp hl

/-- Settles O41: waiting keeps the state, a RESET gives the registers of reset, and a command word keeps the invariants
from the state on which it is run. -/
theorem stepKeepsTheInvariants : Obligations.StepKeepsTheInvariants := by
  intro s t h hstep
  rcases step_cases hstep with ⟨-, rfl⟩ | ⟨rest, -, rfl⟩ | ⟨w, rest, -, hrun⟩
  · exact h
  · exact machineInv_congr resetMeetsTheInvariants (resetEvent_sameRegisters _)
  · exact runWord_machineInv (machineInv_congr h (withActions_sameRegisters rest s)) hrun

end Sys2Proof.Machine

/-! ## Exact results: ACMP, RDS and the summary scalars (41_analyzer.md R83, R87, R88) -/

namespace Sys2Proof.Machine

open Sys2Proof.Safety

/-- Settles O16: R29 leaves room in SUMABS and NZ for one more entry. -/
theorem acmpCompletesExactly : Obligations.AcmpCompletesExactly := by
  intro s rr rg rb h hp hinv c er eg eb
  have hrange : ErrorsInRange [er, eg, eb] := entryErrors_inRange ⟨s.idx.toNat, h⟩ (rgbOfFields_inBytes rr rg rb)
  have hlen : 3 * s.idx.toNat + [er, eg, eb].length ≤ 399 := by
    change 3 * s.idx.toNat + 3 ≤ 399
    omega
  obtain ⟨hroom, hroom'⟩ := accInv_room (accInv_of_machineInv hinv (.inl hp)) hlen
  obtain ⟨hmaxe, hmine⟩ := foldErrors_extremes_toInt hrange s
  refine ⟨_, exec_acmp_of_run hp rr rg rb, ?_⟩
  rw [acmpBody_of_lt h]
  refine ⟨?_, hmaxe, hmine, foldErrors_nz_toNat hrange hroom', idx_add_one_toNat h, hp, rfl, rfl, ?_⟩
  · refine (foldErrors_sumabs_toNat hrange hroom).trans ?_
    simp only [List.map_cons, List.map_nil, List.sum_cons, List.sum_nil]
    omega
  · exact congrArg (s.responses ++ [·]) (responseWord_acmpPayload _)

/-- Settles O18: the payload has more bits than any aggregate, so extension keeps its value. -/
theorem rdsCompletesExactly : Obligations.RdsCompletesExactly := by
  intro s sel hp
  refine ⟨responseWord 0#4 (rdsPayload sel s), exec_rds_of_done hp sel, respStatus_responseWord _ _, ?_⟩
  rw [respPayload_responseWord]
  refine ⟨?_, ?_, ?_, ?_⟩ <;> rintro rfl
  · exact BitVec.toNat_setWidth_of_le (by decide)
  · exact BitVec.toInt_signExtend_of_le (by decide)
  · exact BitVec.toInt_signExtend_of_le (by decide)
  · exact BitVec.toNat_setWidth_of_le (by decide)

/-- Settles O47: with 133 entries R29 bounds NZ by 399 and SUMABS by 255 * 399. -/
theorem summaryScalarsMeanWhatTheySay : Obligations.SummaryScalarsMeanWhatTheySay := by
  intro s hinv hp
  obtain ⟨hidx, -⟩ := hinv.done hp
  have hidx133 : s.idx.toNat = 133 := congrArg BitVec.toNat hidx
  obtain ⟨hnz, -, hsum, hmine, hmine', hmaxe, hmaxe'⟩ := hinv.counts (.inr hp)
  obtain ⟨-, hzero, -⟩ := hinv.extremes (.inr hp) (by omega)
  have hnz399 : (s.nz.toNat : ℚ) ≤ 399 := by exact_mod_cast (by omega : s.nz.toNat ≤ 399)
  have hsum399 : (s.sumabs.toNat : ℚ) ≤ 255 * 399 := by exact_mod_cast (by omega : s.sumabs.toNat ≤ 255 * 399)
  have hnz0 : (0 : ℚ) ≤ s.nz.toNat := Nat.cast_nonneg _
  have hpercent : percentCorrect s = 100 * (399 - s.nz.toNat) / 399 := by
    rw [percentCorrect]
    ring
  refine ⟨⟨div_nonneg (Nat.cast_nonneg _) (by norm_num), ?_⟩, ⟨?_, ?_⟩, hpercent, ?_, hzero.symm, ⟨hmaxe, hmaxe'⟩,
    hmine, hmine'⟩
  · rwa [mae, div_le_iff₀ (by norm_num)]
  · rw [hpercent]
    linarith
  · rw [hpercent]
    linarith
  · rw [hpercent, eq_zero_iff_toNat, ← Nat.cast_eq_zero (R := ℚ)]
    constructor <;> intro h <;> linarith

end Sys2Proof.Machine

/-! ## The phase table and the count of a pass (41_analyzer.md R81, R91) -/

namespace Sys2Proof.Machine

open Sys2Proof.Safety

theorem phaseAfter_of_faulted (i : Instr) {s : State} (hp : s.phase = .faulted) : phaseAfter i s = .faulted := by
  cases i <;> simp [phaseAfter, hp]

/-- In the phases R106 turns a command away from, the table has FAULTED. -/
theorem phaseAfter_of_not_legal {i : Instr} {s : State} (hl : s.phase ∉ legalPhases i) : phaseAfter i s = .faulted := by
  cases i <;> cases hp : s.phase <;> simp [phaseAfter, legalPhases, hp] at hl ⊢

theorem phaseAfter_enc {s : State} (hp : s.phase ≠ .faulted) (idxf : BitVec 8) :
    phaseAfter (.enc idxf) s = if idxf.toNat < 133 then s.phase else .faulted := by
  cases h : s.phase with
  | idle | run | done => simp [phaseAfter, h, Nat.lt_succ_iff]
  | faulted => exact absurd h hp

theorem bodyOf_phase {i : Instr} {s : State} (hp : s.phase ≠ .faulted) (hl : s.phase ∈ legalPhases i) :
    (bodyOf i s).phase = phaseAfter i s := by
  cases i with
  | enc idxf =>
    rw [phaseAfter_enc hp, bodyOf]
    split_ifs with h
    · rw [encBody_of_lt h, respond_phase]
    · rw [encBody_of_ge h, raiseFault_phase]
  | aclr =>
    cases h : s.phase with
    | idle | run | done => simp [phaseAfter, h, bodyOf]
    | faulted => exact absurd h hp
  | acmp rr rg rb =>
    have hrun : s.phase = .run := List.mem_singleton.1 hl
    simp only [phaseAfter, hrun, bodyOf]
    split_ifs with h
    · rw [acmpBody_of_lt h, respond_phase]
      exact hrun
    · rw [acmpBody_of_ge h, raiseFault_phase]
  | afin =>
    have hrun : s.phase = .run := List.mem_singleton.1 hl
    simp only [phaseAfter, hrun, bodyOf]
    split_ifs with h
    · rw [afinBody_of_full h, respond_phase]
    · rw [afinBody_of_short h, raiseFault_phase]
  | rds sel =>
    have hdone : s.phase = .done := List.mem_singleton.1 hl
    simp only [phaseAfter, hdone]
    exact hdone

/-- Settles O30: a refused command and a fault end in FAULTED, and a legal command in the phase its body writes. -/
theorem phaseTableHolds : Obligations.PhaseTableHolds := by
  intro i s
  rw [exec_eq_perform]
  rcases perform_cases (legalPhases i) s (bodyOf i) with ⟨hp, h⟩ | ⟨hp, hl, h⟩ | ⟨-, hl, h⟩
  · exact ⟨_, h, hp.trans (phaseAfter_of_faulted i hp).symm⟩
  · exact ⟨_, h, bodyOf_phase hp hl⟩
  · exact ⟨_, h, (phaseAfter_of_not_legal hl).symm⟩

/-- What the commands do to IDX (R16, R30). -/
theorem bodyOf_idx_cases (i : Instr) (s : State) :
    (bodyOf i s).idx = s.idx ∨
    (∃ rr rg rb, i = .acmp rr rg rb ∧ s.idx.toNat < 133 ∧ (bodyOf i s).idx = s.idx + 1) ∨
    (i = .aclr ∧ (bodyOf i s).idx = 0) := by
  cases i with
  | enc idxf =>
    by_cases h : idxf.toNat < 133
    · exact .inl (by rw [bodyOf, encBody_of_lt h, respond_idx])
    · exact .inl (by rw [bodyOf, encBody_of_ge h, raiseFault_idx])
  | aclr => exact .inr (.inr ⟨rfl, rfl⟩)
  | acmp rr rg rb =>
    by_cases h : s.idx.toNat < 133
    · exact .inr (.inl ⟨rr, rg, rb, rfl, h, by rw [bodyOf, acmpBody_of_lt h, respond_idx]⟩)
    · exact .inl (by rw [bodyOf, acmpBody_of_ge h, raiseFault_idx])
  | afin =>
    by_cases h : s.idx.toNat = 133
    · exact .inl (by rw [bodyOf, afinBody_of_full h, respond_idx])
    · exact .inl (by rw [bodyOf, afinBody_of_short h, raiseFault_idx])
  | rds sel => exact .inl rfl

/-- Settles O31: refusing and faulting keep IDX, and of the legal commands ACMP and ACLR alone write it. -/
theorem onlyAclrAndAcmpMoveIdx : Obligations.OnlyAclrAndAcmpMoveIdx := by
  intro s t w rest hs hstep hidx
  rw [step_of_command hs] at hstep
  rcases runWord_cases w (withActions rest s) with ⟨-, hr⟩ | ⟨-, -, hr⟩ | ⟨_, -, -, -, hr⟩ | ⟨i, hp, hd, hl, hr⟩ <;>
    obtain rfl := Host.Outcome.next.inj (hstep.symm.trans hr)
  · exact absurd rfl hidx
  · exact absurd rfl hidx
  · exact absurd rfl hidx
  · rcases bodyOf_idx_cases i (withActions rest s) with h | ⟨rr, rg, rb, rfl, hlt, h⟩ | ⟨rfl, h⟩
    · exact absurd h hidx
    · exact .inl ⟨rr, rg, rb, hd, List.mem_singleton.1 hl, hlt, by rw [h]; exact idx_add_one_toNat (s := s) hlt⟩
    · exact .inr ⟨hd, hp, h⟩

end Sys2Proof.Machine

/-! ## Which fault a command word raises (60_exceptions.md R101, R106) -/

namespace Sys2Proof.Machine

open Sys2Proof.Safety

/-- The fault of a legal command's own operand or count check (R65, R83, R86). -/
def operandFault (i : Instr) (s : State) : Option FaultCause :=
  match i with
  | .enc idxf => if idxf.toNat < 133 then none else some .domainViolation
  | .acmp _ _ _ => if s.idx.toNat < 133 then none else some .inputShapeError
  | .afin => if s.idx.toNat = 133 then none else some .inputShapeError
  | .aclr => none
  | .rds _ => none

/-- The fault a command word raises in a state that is not FAULTED, by the order of checks of R106. -/
def faultOf (w : Word) (s : State) : Option FaultCause :=
  match decode w with
  | .ok i => if s.phase ∈ legalPhases i then operandFault i s else some .illegalOperation
  | .error _ => some .illegalOperation

/-- A legal command raises the fault of its check as its whole effect, or answers status 0 and does not enter
FAULTED. -/
theorem bodyOf_operandFault (i : Instr) {s : State} (hp : s.phase ≠ .faulted) :
    (∃ c, operandFault i s = some c ∧ bodyOf i s = raiseFault c s) ∨
    (operandFault i s = none ∧ (bodyOf i s).phase ≠ .faulted ∧
      ∃ pay, (bodyOf i s).responses = s.responses ++ [responseWord 0#4 pay]) := by
  cases i with
  | enc idxf =>
    by_cases h : idxf.toNat < 133
    · have hbody : bodyOf (.enc idxf) s = _ := encBody_of_lt h s
      exact .inr ⟨if_pos h, by rwa [hbody], _, by rw [hbody]; rfl⟩
    · exact .inl ⟨_, if_neg h, encBody_of_ge h s⟩
  | aclr => exact .inr ⟨rfl, nofun, _, rfl⟩
  | acmp rr rg rb =>
    by_cases h : s.idx.toNat < 133
    · have hbody : bodyOf (.acmp rr rg rb) s = _ := acmpBody_of_lt h _
      exact .inr ⟨if_pos h, by rwa [hbody], _, by rw [hbody]; rfl⟩
    · exact .inl ⟨_, if_neg h, acmpBody_of_ge h _⟩
  | afin =>
    by_cases h : s.idx.toNat = 133
    · have hbody : bodyOf .afin s = _ := afinBody_of_full h
      exact .inr ⟨if_pos h, by rw [hbody]; nofun, _, by rw [hbody]; rfl⟩
    · exact .inl ⟨_, if_neg h, afinBody_of_short h⟩
  | rds sel => exact .inr ⟨rfl, hp, _, rfl⟩

/-- Everything a word can do in a state that is not FAULTED, by the fault it raises. -/
theorem runWord_faultOf (w : Word) {s : State} (hp : s.phase ≠ .faulted) :
    (∃ c, faultOf w s = some c ∧ runWord w s = .next (raiseFault c s)) ∨
    (faultOf w s = none ∧ ∃ t pay, runWord w s = .next t ∧ t.phase ≠ .faulted ∧
      t.responses = s.responses ++ [responseWord 0#4 pay]) := by
  rcases runWord_cases w s with ⟨hf, -⟩ | ⟨-, ⟨e, hd⟩, hr⟩ | ⟨i, -, hd, hl, hr⟩ | ⟨i, -, hd, hl, hr⟩
  · exact absurd hf hp
  · exact .inl ⟨_, by rw [faultOf, hd], hr⟩
  · exact .inl ⟨_, by rw [faultOf, hd]; exact if_neg hl, hr⟩
  · have hfault : faultOf w s = operandFault i s := by
      rw [faultOf, hd]
      exact if_pos hl
    rw [hfault]
    rcases bodyOf_operandFault i hp with ⟨c, hc, hbody⟩ | ⟨hnone, hphase, pay, hresp⟩
    · exact .inl ⟨c, hc, hr.trans (congrArg _ hbody)⟩
    · exact .inr ⟨hnone, _, pay, hr, hphase, hresp⟩

theorem faulted_with_cause_iff_faultOf {w : Word} {s t : State} (hp : s.phase ≠ .faulted)
    (h : runWord w s = .next t) (c : FaultCause) :
    (t.phase = .faulted ∧ t.cause = some c) ↔ faultOf w s = some c := by
  rcases runWord_faultOf w hp with ⟨c', hc, hr⟩ | ⟨hnone, t', -, hr, hphase, -⟩ <;>
    obtain rfl := Host.Outcome.next.inj (h.symm.trans hr)
  · simp [hc]
  · simp [hnone, hphase]

/-! The fault by the command, in a state that is not FAULTED. -/

theorem phase_mem_of_not_faulted {s : State} (hp : s.phase ≠ .faulted) : s.phase ∈ [Phase.idle, .run, .done] := by
  cases h : s.phase with
  | idle | run | done => decide
  | faulted => exact absurd h hp

theorem faultOf_error {w : Word} {e : DecodeError} (hd : decode w = .error e) (s : State) :
    faultOf w s = some .illegalOperation := by
  rw [faultOf, hd]

theorem faultOf_enc {w : Word} {x : BitVec 8} (hd : decode w = .ok (.enc x)) {s : State} (hp : s.phase ≠ .faulted) :
    faultOf w s = if x.toNat < 133 then none else some .domainViolation := by
  rw [faultOf, hd]
  exact if_pos (phase_mem_of_not_faulted hp)

theorem faultOf_aclr {w : Word} (hd : decode w = .ok .aclr) {s : State} (hp : s.phase ≠ .faulted) :
    faultOf w s = none := by
  rw [faultOf, hd]
  exact if_pos (phase_mem_of_not_faulted hp)

theorem faultOf_acmp {w : Word} {rr rg rb : BitVec 8} (hd : decode w = .ok (.acmp rr rg rb)) (s : State) :
    faultOf w s = if s.phase = .run then if s.idx.toNat < 133 then none else some .inputShapeError
      else some .illegalOperation := by
  simp only [faultOf, hd, legalPhases, List.mem_singleton, operandFault]

theorem faultOf_afin {w : Word} (hd : decode w = .ok .afin) (s : State) :
    faultOf w s = if s.phase = .run then if s.idx.toNat = 133 then none else some .inputShapeError
      else some .illegalOperation := by
  simp only [faultOf, hd, legalPhases, List.mem_singleton, operandFault]

theorem faultOf_rds {w : Word} {sel : Sel} (hd : decode w = .ok (.rds sel)) (s : State) :
    faultOf w s = if s.phase = .done then none else some .illegalOperation := by
  simp only [faultOf, hd, legalPhases, List.mem_singleton, operandFault]

/-- DomainViolation is ENC's alone (R102). -/
theorem faultOf_eq_domainViolation_iff (w : Word) {s : State} (hp : s.phase ≠ .faulted) :
    faultOf w s = some .domainViolation ↔ ∃ x, decode w = .ok (.enc x) ∧ 133 ≤ x.toNat := by
  cases hd : decode w with
  | error e => simp [faultOf_error hd]
  | ok i =>
    cases i with
    | enc x => simp [faultOf_enc hd hp]
    | aclr => simp [faultOf_aclr hd hp]
    | acmp rr rg rb => simp [faultOf_acmp hd, ite_eq_iff]
    | afin => simp [faultOf_afin hd, ite_eq_iff]
    | rds sel => simp [faultOf_rds hd]

/-- InputShapeError is a wrong count in RUN (R103). -/
theorem faultOf_eq_inputShapeError_iff (w : Word) {s : State} (hp : s.phase ≠ .faulted) (hidx : s.idx.toNat ≤ 133) :
    faultOf w s = some .inputShapeError ↔
      s.phase = .run ∧ ((∃ rr rg rb, decode w = .ok (.acmp rr rg rb)) ∧ s.idx.toNat = 133 ∨
        decode w = .ok .afin ∧ s.idx.toNat < 133) := by
  have hfull : 133 ≤ s.idx.toNat ↔ s.idx.toNat = 133 := by omega
  have hshort : s.idx.toNat ≠ 133 ↔ s.idx.toNat < 133 := by omega
  cases hd : decode w with
  | error e => simp [faultOf_error hd]
  | ok i =>
    cases i with
    | enc x => simp [faultOf_enc hd hp]
    | aclr => simp [faultOf_aclr hd hp]
    | acmp rr rg rb => simp [faultOf_acmp hd, ite_eq_iff, hfull]
    | afin => simp [faultOf_afin hd, ite_eq_iff, hshort]
    | rds sel => simp [faultOf_rds hd]

/-- IllegalOperation is an illegal word or a phase that does not fit (R105). -/
theorem faultOf_eq_illegalOperation_iff (w : Word) {s : State} (hp : s.phase ≠ .faulted) :
    faultOf w s = some .illegalOperation ↔
      (∃ e, decode w = .error e) ∨
      ((∃ rr rg rb, decode w = .ok (.acmp rr rg rb)) ∨ decode w = .ok .afin) ∧ s.phase ≠ .run ∨
      (∃ sel, decode w = .ok (.rds sel)) ∧ s.phase ≠ .done := by
  cases hd : decode w with
  | error e => simp [faultOf_error hd]
  | ok i =>
    cases i with
    | enc x => simp [faultOf_enc hd hp]
    | aclr => simp [faultOf_aclr hd hp]
    | acmp rr rg rb => simp [faultOf_acmp hd, ite_eq_iff]
    | afin => simp [faultOf_afin hd, ite_eq_iff]
    | rds sel => simp [faultOf_rds hd]

/-- No command raises DegenerateTable (R104). -/
theorem faultOf_ne_degenerateTable (w : Word) {s : State} (hp : s.phase ≠ .faulted) :
    faultOf w s ≠ some .degenerateTable := by
  cases hd : decode w with
  | error e => simp [faultOf_error hd]
  | ok i =>
    cases i with
    | enc x => simp [faultOf_enc hd hp]
    | aclr => simp [faultOf_aclr hd hp]
    | acmp rr rg rb => simp [faultOf_acmp hd, ite_eq_iff]
    | afin => simp [faultOf_afin hd, ite_eq_iff]
    | rds sel => simp [faultOf_rds hd]

theorem afterReset_cause_iff (t : Tables) :
    (State.afterReset t).cause = some .degenerateTable ↔ tableCheck t = false := by
  simp [State.afterReset]

/-- Settles O32: a word enters FAULTED with the fault of its first failing check, and reset with that of the tables. -/
theorem eachFaultRaisedByItsRule : Obligations.EachFaultRaisedByItsRule := by
  refine ⟨fun s t w rest hs hp hidx hstep => ?_, afterReset_cause_iff, rfl, rfl, rfl, rfl⟩
  rw [step_of_command hs] at hstep
  have hfault := faulted_with_cause_iff_faultOf (s := withActions rest s) hp hstep
  rw [hfault, hfault, hfault, hfault, ← (decoderIsTotalAndExact w).2]
  exact ⟨faultOf_eq_domainViolation_iff w hp, faultOf_eq_inputShapeError_iff w hp hidx,
    faultOf_eq_illegalOperation_iff w hp, faultOf_ne_degenerateTable w hp⟩

end Sys2Proof.Machine

/-! ## Runs, one word at a time (00_scope.md R8) -/

namespace Sys2Proof.Safety

open Sys2Proof.Machine

/-- A word is run the same whatever the host does after it. -/
theorem runWord_withActions {w : Word} {s t : State} (h : runWord w s = .next t) (as : List HostAction) :
    runWord w (withActions as s) = .next (withActions as t) := by
  obtain ⟨u, x, hu⟩ := runWord_answersFromRegisters w s
  obtain rfl : t = _ := Host.Outcome.next.inj (h.symm.trans (hu s.actions s.responses))
  exact hu as s.responses

theorem runWord_of_decode {w : Word} {i : Instr} (h : decode w = .ok i) (s : State) : runWord w s = exec i s := by
  rw [runWord, h]

theorem runWords_cons {w : Word} {ws : List Word} {s t : State} (h : runWord w s = .next t) :
    runWords (w :: ws) s = runWords ws t := by
  have hstep : step (withActions ((w :: ws).map .command) s) = .next (withActions (ws.map .command) t) :=
    (step_of_command rfl).trans (runWord_withActions h _)
  exact runSteps_succ hstep

theorem runInstrs_nil (s : State) : runInstrs [] s = .next (withActions [] s) := rfl

theorem runInstrs_cons {i : Instr} {is : List Instr} {s t : State} (h : exec i s = .next t) :
    runInstrs (i :: is) s = runInstrs is t :=
  runWords_cons ((runWord_of_decode (decode_encode i) s).trans h)

/-- A FAULTED block answers every word of a run with its cause and changes no register (R109). -/
theorem runWords_of_faulted {s : State} (hp : s.phase = .faulted) (ws : List Word) :
    runWords ws s = .next { s with
      actions := []
      responses := s.responses ++ List.replicate ws.length (responseWord (statusOfCause s.cause) 0#28) } := by
  induction ws generalizing s with
  | nil =>
    rw [runWords_nil, List.length_nil, List.replicate_zero, List.append_nil]
    rfl
  | cons w ws ih =>
    rw [runWords_cons (runWord_of_faulted w hp), ih (refuse_phase s ▸ hp), refuse_cause, refuse_responses,
      List.length_cons, List.replicate_succ, List.append_assoc]
    rfl

/-! ### Good runs (70_reset_and_hazards.md R126) -/

theorem noFaultReported_cons {w : Word} {ws : List Word} :
    NoFaultReported (w :: ws) ↔ respStatus w = 0 ∧ NoFaultReported ws := List.forall_mem_cons

theorem runWords_noFaultReported_iff {s : State} (hp : s.phase ≠ .faulted) (ws : List Word) :
    ∃ t rs, runWords ws s = .next t ∧ t.responses = s.responses ++ rs ∧ (NoFaultReported rs ↔ t.phase ≠ .faulted) := by
  induction ws generalizing s with
  | nil => exact ⟨withActions [] s, [], rfl, (List.append_nil _).symm, iff_of_true nofun hp⟩
  | cons w ws ih =>
    rcases runWord_faultOf w hp with ⟨c, -, hr⟩ | ⟨-, u, pay, hr, hu, hresp⟩
    · have hcode : c.code ≠ 0 := by cases c <;> decide
      refine ⟨_, responseWord c.code 0#28 :: _,
        (runWords_cons hr).trans (runWords_of_faulted (raiseFault_phase c s) ws), List.append_assoc _ [_] _, ?_⟩
      refine iff_of_false (fun h => hcode ?_) (not_not.2 rfl)
      exact (respStatus_responseWord c.code 0#28).symm.trans (noFaultReported_cons.1 h).1
    · obtain ⟨t, rs, hrun, hrs, hiff⟩ := ih hu
      refine ⟨t, responseWord 0#4 pay :: rs, (runWords_cons hr).trans hrun, ?_, ?_⟩
      · rw [hrs, hresp, List.append_assoc, List.singleton_append]
      · rw [noFaultReported_cons, respStatus_responseWord, hiff]
        exact and_iff_right rfl

/-- Settles O48: a performed command answers status 0 and the run goes on; a faulting one answers its code, and from
there on the block stays FAULTED. -/
theorem goodRunEndsUnfaulted : Obligations.GoodRunEndsUnfaulted := by
  intro s ws hp
  obtain ⟨t, rs, hrun, hrs, hiff⟩ := runWords_noFaultReported_iff hp ws
  refine ⟨t, hrun, ?_⟩
  rw [hrs, List.drop_left]
  exact hiff

/-! ### ENC commands in a run (41_analyzer.md R92) -/

theorem sameRegisters_symm {s t : State} (h : SameRegisters s t) : SameRegisters t s :=
  ⟨h.phase.symm, h.cause.symm, h.idx.symm, h.sumabs.symm, h.maxe.symm, h.mine.symm, h.nz.symm⟩

theorem sameRegisters_trans {s t u : State} (h : SameRegisters s t) (h' : SameRegisters t u) : SameRegisters s u :=
  ⟨h.phase.trans h'.phase, h.cause.trans h'.cause, h.idx.trans h'.idx, h.sumabs.trans h'.sumabs,
    h.maxe.trans h'.maxe, h.mine.trans h'.mine, h.nz.trans h'.nz⟩

theorem exists_decode_of_inDomainEnc {w : Word} (h : inDomainEnc w = true) :
    ∃ x, decode w = .ok (.enc x) ∧ x.toNat < 133 := by
  unfold inDomainEnc at h
  split at h
  · exact ⟨_, ‹_›, of_decide_eq_true h⟩
  all_goals exact absurd h (by decide)

/-- An in-domain ENC is answered, or refused by a FAULTED block; it writes no register in either case. -/
theorem runWord_inDomainEnc {w : Word} (h : inDomainEnc w = true) (s : State) :
    ∃ t x, runWord w s = .next t ∧ SameRegisters s t ∧ t.responses = s.responses ++ [x] := by
  by_cases hp : s.phase = .faulted
  · exact ⟨_, _, runWord_of_faulted w hp, respond_sameRegisters _ _ s, rfl⟩
  · obtain ⟨x, hd, hx⟩ := exists_decode_of_inDomainEnc h
    have hr : runWord w s = .next (encBody x s) := (runWord_of_decode hd s).trans (exec_enc_of_not_faulted x hp)
    rw [encBody_of_lt hx] at hr
    exact ⟨_, _, hr, respond_sameRegisters _ _ s, rfl⟩

/-- One word on two states with the same registers (R27). -/
theorem runWord_of_sameRegisters (w : Word) {s s' : State} (h : SameRegisters s s') :
    ∃ t t' x, runWord w s = .next t ∧ runWord w s' = .next t' ∧ SameRegisters t t' ∧
      t.responses = s.responses ++ [x] ∧ t'.responses = s'.responses ++ [x] := by
  obtain ⟨u, x, hu⟩ := runWord_answersFromRegisters w s
  refine ⟨_, _, x, hu s.actions s.responses, ?_,
    sameRegisters_withPorts _ s'.actions _ (s'.responses ++ [x]) u, rfl, rfl⟩
  rw [eq_withPorts_of_sameRegisters h]
  exact hu s'.actions s'.responses

/-- The two runs of R92 side by side: their states have the same registers throughout. -/
theorem runWords_filter_inDomainEnc (ws : List Word) {s s' : State} (h : SameRegisters s s') :
    ∃ t t' rs rs', runWords ws s = .next t ∧ runWords (ws.filter (fun w => !inDomainEnc w)) s' = .next t' ∧
      SameRegisters t t' ∧ t.responses = s.responses ++ rs ∧ t'.responses = s'.responses ++ rs' ∧
      ((ws.zip rs).filter (fun p => !inDomainEnc p.1)).map Prod.snd = rs' := by
  induction ws generalizing s s' with
  | nil =>
    have hend : SameRegisters (withActions [] s) (withActions [] s') :=
      sameRegisters_trans (sameRegisters_symm (withActions_sameRegisters [] s))
        (sameRegisters_trans h (withActions_sameRegisters [] s'))
    exact ⟨_, _, [], [], rfl, rfl, hend, (List.append_nil _).symm, (List.append_nil _).symm, rfl⟩
  | cons w ws ih =>
    by_cases hw : inDomainEnc w = true
    · obtain ⟨u, x, hr, hregs, hx⟩ := runWord_inDomainEnc hw s
      obtain ⟨t, t', rs, rs', hrun, hrun', hend, hrs, hrs', hstay⟩ :=
        ih (sameRegisters_trans (sameRegisters_symm hregs) h)
      refine ⟨t, t', x :: rs, rs', (runWords_cons hr).trans hrun, ?_, hend, ?_, hrs', ?_⟩
      · rwa [List.filter_cons_of_neg (by simp [hw])]
      · rw [hrs, hx, List.append_assoc, List.singleton_append]
      · rwa [List.zip_cons_cons, List.filter_cons_of_neg (by simp [hw])]
    · obtain ⟨u, u', x, hr, hr', hregs, hx, hx'⟩ := runWord_of_sameRegisters w h
      obtain ⟨t, t', rs, rs', hrun, hrun', hend, hrs, hrs', hstay⟩ := ih hregs
      refine ⟨t, t', x :: rs, x :: rs', (runWords_cons hr).trans hrun, ?_, hend, ?_, ?_, ?_⟩
      · rw [List.filter_cons_of_pos (by simp [hw])]
        exact (runWords_cons hr').trans hrun'
      · rw [hrs, hx, List.append_assoc, List.singleton_append]
      · rw [hrs', hx', List.append_assoc, List.singleton_append]
      · rw [List.zip_cons_cons, List.filter_cons_of_pos (by simp [hw]), List.map_cons, hstay]

/-- Settles O43: the two runs start from one state. -/
theorem encCommandsDoNotDisturb : Obligations.EncCommandsDoNotDisturb := by
  intro s ws
  obtain ⟨t, t', rs, rs', hrun, hrun', hend, hrs, hrs', hstay⟩ :=
    runWords_filter_inDomainEnc ws (s := s) (s' := s) ⟨rfl, rfl, rfl, rfl, rfl, rfl, rfl⟩
  refine ⟨t, t', hrun, hrun', hend, ?_⟩
  rw [hrs, hrs', List.drop_left, List.drop_left, hstay]

end Sys2Proof.Safety

/-! ## Whole passes (41_analyzer.md R93, R95, 60_exceptions.md R103) -/

namespace Sys2Proof.Safety

open Sys2Proof.Machine

theorem rgbOfRgb24_inBytes (w : BitVec 24) : (rgbOfRgb24 w).InBytes := rgbOfFields_inBytes _ _ _

theorem exec_acmpOf {s : State} (hp : s.phase = .run) (w : BitVec 24) :
    exec (acmpOf w) s = .next (acmpBody (rgbOfRgb24 w) s) := exec_acmp_of_run hp _ _ _

/-! ### A pass of another length -/

/-- A run of commands that begins with a fault ends in it, and every command after it is answered with its code. -/
theorem runInstrs_of_raiseFault {i : Instr} {is : List Instr} {s : State} {c : FaultCause}
    (h : exec i s = .next (raiseFault c s)) :
    ∃ t, runInstrs (i :: is) s = .next t ∧ t.phase = .faulted ∧ t.cause = some c ∧
      ∃ before, t.responses = before ++ [responseWord c.code 0#28] := by
  refine ⟨_, (runInstrs_cons h).trans (runWords_of_faulted (raiseFault_phase c s) _), rfl, rfl,
    s.responses ++ List.replicate is.length (responseWord c.code 0#28), ?_⟩
  rw [List.length_map, List.append_assoc, ← List.replicate_succ', List.replicate_succ, raiseFault_responses,
    List.append_assoc]
  rfl

/-- The ACMPs of a reference and the AFIN after them, where they do not end at 133 entries: the AFIN comes too soon,
or an ACMP too late. -/
theorem runInstrs_wrong_length (ref : List (BitVec 24)) {s : State} (hp : s.phase = .run)
    (hidx : s.idx.toNat ≤ 133) (hlen : s.idx.toNat + ref.length ≠ 133) :
    ∃ t, runInstrs (ref.map acmpOf ++ [.afin]) s = .next t ∧ t.phase = .faulted ∧ t.cause = some .inputShapeError ∧
      ∃ before, t.responses = before ++ [0x20000000#32] := by
  induction ref generalizing s with
  | nil =>
    have hfault : exec .afin s = .next (raiseFault .inputShapeError s) :=
      (exec_afin_of_run hp).trans (congrArg _ (afinBody_of_short hlen))
    exact runInstrs_of_raiseFault hfault
  | cons w ref ih =>
    rw [List.map_cons, List.cons_append]
    by_cases h : s.idx.toNat < 133
    · rw [runInstrs_cons (exec_acmpOf hp w), acmpBody_of_lt h]
      refine ih hp ?_ ?_
      · exact (idx_add_one_toNat h).trans_le h
      · change (s.idx + 1).toNat + ref.length ≠ 133
        rw [List.length_cons] at hlen
        rw [idx_add_one_toNat h]
        omega
    · have hfault : exec (acmpOf w) s = .next (raiseFault .inputShapeError s) :=
        (exec_acmpOf hp w).trans (congrArg _ (acmpBody_of_ge h _))
      exact runInstrs_of_raiseFault hfault

/-- Settles O46: after ACLR the count starts at 0, so the pass ends at 133 entries only with 133 colours. -/
theorem wrongLengthIsRejected : Obligations.WrongLengthIsRejected := by
  intro ref s hp hlen
  obtain ⟨t, ht, hend⟩ := runInstrs_wrong_length ref (s := aclrBody s) rfl (Nat.zero_le 133)
    (fun h => hlen ((Nat.zero_add _).symm.trans h))
  exact ⟨t, (runInstrs_cons (exec_aclr_of_not_faulted hp)).trans ht, hend⟩

/-! ### A pass of 133 entries -/

theorem channelErrors_eq (ref : Index → BitVec 24) (k : Index) :
    channelErrors ref k = (entryErrors k (rgbOfRgb24 (ref k))).channels := rfl

theorem channelErrors_inRange (ref : Index → BitVec 24) (k : Index) : ErrorsInRange (channelErrors ref k) :=
  entryErrors_inRange k (rgbOfRgb24_inBytes (ref k))

/-- The response to the ACMP of index `k`. -/
def entryResponse (ref : Index → BitVec 24) (k : Index) : Word :=
  responseWord 0#4 (acmpPayload (entryErrors k (rgbOfRgb24 (ref k))))

theorem passResponses_eq (ref : Index → BitVec 24) :
    passResponses ref = (List.finRange 133).map (entryResponse ref) :=
  List.map_congr_left fun k _ => (responseWord_acmpPayload (entryErrors k (rgbOfRgb24 (ref k)))).symm

/-- The state in which the entries of the indices `ks` have been compared after those of `s`. -/
def afterEntries (ref : Index → BitVec 24) (ks : List Index) (s : State) : State :=
  { foldErrors (ks.flatMap (channelErrors ref)) s with
    idx := s.idx + BitVec.ofNat 8 ks.length
    responses := s.responses ++ ks.map (entryResponse ref) }

theorem foldErrors_with (l : List Int) (s : State) (idx : BitVec 8) (responses : List Word) :
    foldErrors l { s with idx := idx, responses := responses } =
      { foldErrors l s with idx := idx, responses := responses } := by
  induction l generalizing s with
  | nil => rfl
  | cons e l ih => exact ih (accumulate e s)

theorem foldErrors_phase_cause (l : List Int) (s : State) :
    (foldErrors l s).phase = s.phase ∧ (foldErrors l s).cause = s.cause := by
  induction l generalizing s with
  | nil => exact ⟨rfl, rfl⟩
  | cons e l ih => exact ih (accumulate e s)

theorem afterEntries_nil (ref : Index → BitVec 24) (s : State) : afterEntries ref [] s = s := by
  simp [afterEntries, foldErrors_nil]

theorem afterEntries_cons (ref : Index → BitVec 24) (k : Index) (ks : List Index) (s : State) :
    afterEntries ref (k :: ks) s = afterEntries ref ks (afterEntries ref [k] s) := by
  have hidx : s.idx + BitVec.ofNat 8 (k :: ks).length = s.idx + 1 + BitVec.ofNat 8 ks.length := by
    rw [List.length_cons, BitVec.ofNat_add, BitVec.add_comm (BitVec.ofNat 8 ks.length), BitVec.add_assoc]
    rfl
  have hresp : s.responses ++ (k :: ks).map (entryResponse ref) =
      s.responses ++ [entryResponse ref k] ++ ks.map (entryResponse ref) := by
    rw [List.append_assoc, List.map_cons, List.singleton_append]
  simp only [afterEntries, hidx, hresp, foldErrors_with, List.flatMap_cons, List.flatMap_nil, List.append_nil,
    foldErrors_append]
  rfl

theorem afterEntries_phase (ref : Index → BitVec 24) (ks : List Index) (s : State) :
    (afterEntries ref ks s).phase = s.phase := (foldErrors_phase_cause _ s).1

/-- One ACMP at the index IDX names. -/
theorem acmpBody_eq_afterEntries (ref : Index → BitVec 24) {k : Index} {s : State} (hk : k.val = s.idx.toNat) :
    acmpBody (rgbOfRgb24 (ref k)) s = afterEntries ref [k] s := by
  have hlt : s.idx.toNat < 133 := hk ▸ k.isLt
  have hk' : (⟨s.idx.toNat, hlt⟩ : Index) = k := Fin.ext hk.symm
  rw [acmpBody_of_lt hlt, hk']
  rfl

/-- The ACMPs of consecutive indices from IDX on, before any other commands. -/
theorem runInstrs_entries (ref : Index → BitVec 24) (is : List Instr) (ks : List Index) {s : State}
    (hp : s.phase = .run) (hks : ks.map Fin.val = List.range' s.idx.toNat ks.length) :
    runInstrs ((ks.map ref).map acmpOf ++ is) s = runInstrs is (afterEntries ref ks s) := by
  induction ks generalizing s with
  | nil => rw [afterEntries_nil]; rfl
  | cons k ks ih =>
    rw [List.map_cons, List.length_cons, List.range'_succ, List.cons.injEq] at hks
    obtain ⟨hk, hks⟩ := hks
    rw [List.map_cons, List.map_cons, List.cons_append, runInstrs_cons (exec_acmpOf hp (ref k)),
      acmpBody_eq_afterEntries ref hk, afterEntries_cons ref k ks]
    refine ih ((afterEntries_phase ref [k] s).trans hp) ?_
    change _ = List.range' (s.idx + 1).toNat ks.length
    rw [idx_add_one_toNat (hk ▸ k.isLt)]
    exact hks

/-- The state after a whole pass. -/
def afterPass (ref : Index → BitVec 24) (s : State) : State :=
  withActions [] (respond 0#4 0#28 { afterEntries ref (List.finRange 133) (aclrBody s) with phase := .done })

theorem runInstrs_analyze (ref : Index → BitVec 24) {s : State} (hp : s.phase ≠ .faulted) :
    runInstrs (analyze ((List.finRange 133).map ref)) s = .next (afterPass ref s) := by
  have hidx : (List.finRange 133).map Fin.val = List.range' (aclrBody s).idx.toNat (List.finRange 133).length := by
    rw [List.length_finRange, List.map_coe_finRange_eq_range, List.range_eq_range']
    rfl
  have hphase : (afterEntries ref (List.finRange 133) (aclrBody s)).phase = .run := afterEntries_phase ref _ _
  have hfull : (afterEntries ref (List.finRange 133) (aclrBody s)).idx.toNat = 133 := by
    rw [afterEntries, List.length_finRange]
    rfl
  calc runInstrs (analyze ((List.finRange 133).map ref)) s
    _ = runInstrs (((List.finRange 133).map ref).map acmpOf ++ [Instr.afin]) (aclrBody s) :=
      runInstrs_cons (exec_aclr_of_not_faulted hp)
    _ = runInstrs [.afin] (afterEntries ref (List.finRange 133) (aclrBody s)) := runInstrs_entries ref _ _ rfl hidx
    _ = .next (withActions [] (afinBody (afterEntries ref (List.finRange 133) (aclrBody s)))) :=
      (runInstrs_cons (exec_afin_of_run hphase)).trans (runInstrs_nil _)
    _ = .next (afterPass ref s) := by rw [afinBody_of_full hfull, afterPass]

theorem afterPass_eq (ref : Index → BitVec 24) (s : State) : afterPass ref s =
    { foldErrors (passErrors ref) (aclrBody s) with
      phase := .done
      idx := 133
      actions := []
      responses := s.responses ++ 0#32 :: (passResponses ref ++ [0#32]) } := by
  have hidx : (aclrBody s).idx + BitVec.ofNat 8 (List.finRange 133).length = 133 := by
    rw [List.length_finRange]
    rfl
  have hresp : (aclrBody s).responses ++ passResponses ref ++ [0#32] =
      s.responses ++ 0#32 :: (passResponses ref ++ [0#32]) := by
    change s.responses ++ [0#32] ++ passResponses ref ++ [0#32] = _
    rw [List.append_assoc, List.append_assoc, List.singleton_append]
  rw [afterPass, afterEntries, hidx, ← passResponses_eq, ← passErrors, ← hresp]
  generalize passResponses ref = rs
  generalize foldErrors (passErrors ref) (aclrBody s) = u
  rfl

theorem passErrors_inRange (ref : Index → BitVec 24) : ErrorsInRange (passErrors ref) := by
  intro e he
  obtain ⟨k, -, hk⟩ := List.mem_flatMap.1 he
  exact channelErrors_inRange ref k e hk

theorem passErrors_length (ref : Index → BitVec 24) : (passErrors ref).length = 399 := by
  simp [passErrors, channelErrors]

/-- The greatest element of a list of errors, folded from the least one there can be. -/
theorem foldl_max_isGreatest {l : List Int} {a : Int} (hne : l ≠ []) (hl : ∀ e ∈ l, a ≤ e) :
    l.foldl max a ∈ l ∧ ∀ e ∈ l, e ≤ l.foldl max a := by
  obtain ⟨m, hm⟩ := Option.isSome_iff_exists.1 (List.isSome_max?_of_ne_nil hne)
  obtain ⟨hmem, hle⟩ := List.max?_eq_some_iff.1 hm
  have hfold : l.foldl max a = m := by rw [List.foldl_max, hm, Option.getD_some, max_eq_right (hl m hmem)]
  exact hfold ▸ ⟨hmem, hle⟩

/-- The least element, folded from the greatest there can be. -/
theorem foldl_min_isLeast {l : List Int} {a : Int} (hne : l ≠ []) (hl : ∀ e ∈ l, e ≤ a) :
    l.foldl min a ∈ l ∧ ∀ e ∈ l, l.foldl min a ≤ e := by
  obtain ⟨m, hm⟩ := Option.isSome_iff_exists.1 (List.isSome_min?_of_ne_nil hne)
  obtain ⟨hmem, hle⟩ := List.min?_eq_some_iff.1 hm
  have hfold : l.foldl min a = m := by rw [List.foldl_min, hm, Option.getD_some, min_eq_right (hl m hmem)]
  exact hfold ▸ ⟨hmem, hle⟩

/-- Settles O44: ACLR clears, the ACMPs fold the 399 errors, for which the registers have room, and AFIN closes. -/
theorem passResultIsClosedForm : Obligations.PassResultIsClosedForm := by
  intro ref s hp
  have hrange := passErrors_inRange ref
  have hlen := passErrors_length ref
  have hne : passErrors ref ≠ [] := List.ne_nil_of_length_pos (by omega)
  obtain ⟨hroom, hroom'⟩ := accInv_room (s := aclrBody s) (accInv_clearPass s) (k := (passErrors ref).length) (by omega)
  obtain ⟨hmaxe, hmine⟩ := foldErrors_extremes_toInt hrange (aclrBody s)
  have hsumabs := foldErrors_sumabs_toNat hrange hroom
  have hnz := foldErrors_nz_toNat hrange hroom'
  have hcause : (foldErrors (passErrors ref) (aclrBody s)).cause = s.cause :=
    (foldErrors_phase_cause (passErrors ref) (aclrBody s)).2
  rw [List.ofFn_eq_map, runInstrs_analyze ref hp, afterPass_eq]
  generalize foldErrors (passErrors ref) (aclrBody s) = u at *
  refine ⟨_, rfl, rfl, rfl, hcause, rfl, hsumabs.trans (Nat.zero_add _), hnz.trans (Nat.zero_add _), ?_, ?_, rfl⟩
  · rw [hmaxe]
    exact foldl_max_isGreatest hne fun e he => (hrange e he).1
  · rw [hmine]
    exact foldl_min_isLeast hne fun e he => (hrange e he).2

/-! ### The pass over the block's own colours -/

/-- The colour word of a colour in byte range names that colour (R57). -/
theorem rgbOfRgb24_rgb24 {c : Rgb} (h : c.InBytes) : rgbOfRgb24 (rgb24 c) = c := by
  obtain ⟨hr, hg, hb⟩ := h
  obtain ⟨hcr, hcg, hcb⟩ := colour_channels (BitVec.ofInt 8 c.r) (BitVec.ofInt 8 c.g) (BitVec.ofInt 8 c.b)
  rw [rgbOfRgb24, rgb24, hcr, hcg, hcb, rgbOfFields, ofInt_byte_toNat hr, ofInt_byte_toNat hg, ofInt_byte_toNat hb]

/-- The reference the block's own colours make. -/
def ownReference (k : Index) : BitVec 24 := rgb24 (encodeIndex tables k)

theorem entryErrors_ownReference (k : Index) : entryErrors k (rgbOfRgb24 (ownReference k)) = ⟨0, 0, 0⟩ := by
  rw [ownReference, rgbOfRgb24_rgb24 (encodeIndex_tables_inBytes k), entryErrors, errorsOf]
  simp only [sub_self]

theorem passErrors_ownReference : ∀ e ∈ passErrors ownReference, e = 0 := by
  intro e he
  obtain ⟨k, -, hk⟩ := List.mem_flatMap.1 he
  rw [channelErrors_eq, entryErrors_ownReference] at hk
  simpa [Rgb.channels] using hk

theorem passResponses_ownReference : passResponses ownReference = List.replicate 133 0#32 := by
  have hzero (k : Index) : entryResponse ownReference k = 0#32 := by
    rw [entryResponse, entryErrors_ownReference]
    decide
  rw [passResponses_eq, List.map_congr_left fun k _ => hzero k, List.map_const', List.length_finRange]

/-- Settles O45: every error of this pass is 0, so the sum, the count, the greatest and the least are 0. -/
theorem selfComparisonIsExact : Obligations.SelfComparisonIsExact := by
  intro s hp
  obtain ⟨t, hrun, hphase, hidx, hcause, hactions, hsumabs, hnz, ⟨hmaxe, -⟩, ⟨hmine, -⟩, hresp⟩ :=
    passResultIsClosedForm ownReference s hp
  have hzero := passErrors_ownReference
  have hsumabs0 : t.sumabs = 0 := by
    rw [eq_zero_iff_toNat, hsumabs, List.sum_eq_zero_iff]
    simpa using hzero
  have hnz0 : t.nz = 0 := by
    rw [eq_zero_iff_toNat, hnz, List.countP_eq_zero]
    simpa using hzero
  have hmaxe0 : t.maxe = 0 := BitVec.eq_of_toInt_eq (hzero _ hmaxe)
  have hmine0 : t.mine = 0 := BitVec.eq_of_toInt_eq (hzero _ hmine)
  rw [passResponses_ownReference] at hresp
  rw [List.ofFn_eq_map] at hrun
  refine hrun.trans (congrArg _ ?_)
  cases t
  subst hphase hidx hcause hactions hsumabs0 hnz0 hmaxe0 hmine0 hresp
  rfl

end Sys2Proof.Safety
